-- ==== Sys2Proof/Word.lean ====
section
/-! DEFINITION. The widths of the block: characters, symbols, the encoder's register, the packed fields, and the
two fixed groups of characters (00_scope.md R8, R9, R12; 10_state.md R23 to R33). -/

namespace Sys2Proof

/-- One 8-bit code: a character (R12), a counter value or an address (R31, R32). -/
abbrev Byte := BitVec 8

/-- The encoder's shift register: 32 bits (10_state.md R29). -/
abbrev Word := BitVec 32

/-- One symbol: 2 bits, bit 0 the sync bit, bit 1 the data bit (20_memory.md R62). -/
abbrev Sym := BitVec 2

/-- The packed callsign `N`: 28 bits (10_state.md R27). -/
abbrev PackedN := BitVec 28

/-- The packed locator and power `M`: 22 bits (10_state.md R28). -/
abbrev PackedM := BitVec 22

/-- Six characters, index 0 first: `call_ch`, `CALL` and `BUF` (10_state.md R21, R23, R26). -/
structure Chars6 where
  c0 : Byte
  c1 : Byte
  c2 : Byte
  c3 : Byte
  c4 : Byte
  c5 : Byte
  deriving DecidableEq, Repr

/-- Four characters, index 0 first: `loc_ch` and `LOC` (10_state.md R21, R24). -/
structure Chars4 where
  c0 : Byte
  c1 : Byte
  c2 : Byte
  c3 : Byte
  deriving DecidableEq, Repr

end Sys2Proof
end

