-- ==== Sys2Proof/Syntax.lean ====
section
/-! DEFINITION. The operations of the block: the four host commands, the eight phases, the reset, and the fifteen
functions of the function level; one constructor of `Instr` per row of spec/opcode_table.json (30_encoding.md R90, R108). -/

namespace Sys2Proof

/-- The host commands of the port `cmd` (30_encoding.md R91). -/
inductive Command where
  | nop
  | start
  | clear
  | rsvd3
  deriving DecidableEq, Repr

/-- The phases of the register `PH` (30_encoding.md R93). -/
inductive Phase where
  | idle
  | pack
  | seed
  | shift
  | addr
  | place
  | done
  | err
  deriving DecidableEq, Repr

/-- One constructor per row of the opcode table. Commands and phases hold no operand: their operands travel on ports or in
registers, never inside the word (R90). The functions of format F hold their arguments; what a function's own rule keeps
in a register of the block (`REG`, `CNT`, `SYM`) is not an argument (log entry 5). -/
inductive Instr where
  /-- `NOP`, R211 -/
  | nop
  /-- `START`, R212 -/
  | start
  /-- `CLEAR`, R213 -/
  | clear
  /-- the reserved command 3, R103 and R214 -/
  | rsvd3
  /-- the wait phase `IDLE`, R223 -/
  | idle
  /-- the micro-operation `PACK`, R218 -/
  | pack
  /-- the micro-operation `SEED`, R219 -/
  | seedOp
  /-- the micro-operation `SHIFT`, R220 -/
  | shift
  /-- the micro-operation `ADDR`, R221 -/
  | addr
  /-- the micro-operation `PLACE`, R222 -/
  | placeOp
  /-- the wait phase `DONE`, R223 -/
  | done
  /-- the wait phase `ERR`, R223 -/
  | err
  /-- `RESET`, R270 -/
  | reset
  /-- `value(c)`, CM.VALUE, R121 -/
  | value (c : Byte)
  /-- `check(call_len, loc_len)`, FP.CHECK, R124 -/
  | check (callLen locLen : Nat)
  /-- `layout(call)`, FP.LAYOUT, R126 -/
  | layout (call : List Byte)
  /-- `packN(BUF)`, FP.PACKN, R128 -/
  | packN (buf : Chars6)
  /-- `packM(loc, p)`, FP.PACKM, R130 -/
  | packM (loc : Chars4) (p : Int)
  /-- `bitsched(N, M, k)`, R153 -/
  | bitsched (n : PackedN) (m : PackedM) (k : Nat)
  /-- `CE.SHIFT` on the register `REG` with the input bit `b`, R154 -/
  | cestep (b : Bool)
  /-- `parity(x)`, R152 -/
  | parity (x : Word)
  /-- `CE.INIT`, R151 -/
  | ceinit
  /-- `rev8(x)`, R171 -/
  | rev8 (x : Byte)
  /-- `IL.INIT`, R172 -/
  | ilinit
  /-- `IL.NEXT`, one draw, R174 -/
  | ilnext
  /-- `MA.SEED`, R192 -/
  | seed
  /-- `MA.PLACE` of the parity bit `p` at the address `a`, R193 -/
  | place (a : Byte) (p : Bool)
  /-- `encode(callsign, locator, power)`, R195 -/
  | encode (call loc : List Byte) (p : Int)
  deriving DecidableEq, Repr

/-- The lines of a host program (30_encoding.md R107), with `RSVD3` for an edge that presents the reserved command.
Strings are lists of codes and the power is an integer (R106). -/
inductive HostLine where
  | reset
  | nop
  | start (call loc : List Byte) (p : Int)
  | clear
  | rsvd3
  | read (a : Byte)
  | wait
  | encode (call loc : List Byte) (p : Int)
  | readAll
  deriving DecidableEq, Repr

end Sys2Proof
end

