-- ==== Sys2Proof/Config.lean ====
section
/-! DEFINITION. What an instance of the block fixes (00_scope.md R8, R9; 10_state.md R37), and the free values: what
the spec leaves open, as constants without a body. -/

namespace Sys2Proof.Config

/-- `POLY0`, the mask of the first parity bit of each step (00_scope.md R8). -/
def poly0 : Word := 0xF2D05351

/-- `POLY1`, the mask of the second parity bit of each step (00_scope.md R8). -/
def poly1 : Word := 0xE4613C47

/-- `STEPS`: 28 + 22 + 31 register updates (00_scope.md R8). -/
def steps : Nat := 81

/-- `NSYM`: parity bits, addresses, symbols (00_scope.md R8). -/
def nsym : Nat := 162

/-- `ADDR_MAX`: the largest valid address (00_scope.md R8, 20_memory.md R61). -/
def addrMax : Nat := 161

/-- `LOC_LEN_REQ`: the required locator length (00_scope.md R8). -/
def locLenReq : Nat := 4

/-- `SYNC[0..161]`: element `a` is bit `a`. The spec leaves the values OPEN (00_scope.md R9, D9), so nothing is known of
them here. Mark: DESIGN CHOICE, log entry 1, safe. -/
opaque sync : BitVec 162

/-- The free values: the `i`-th value of width `w` that an operation takes where the spec states none. Nothing
constrains it. Mark: DESIGN CHOICE, log entries 3 and 10, safe. -/
opaque free (w i : Nat) : BitVec w

/-- A free value of one bit. Mark: DESIGN CHOICE, log entries 3 and 10, safe. -/
opaque freeBit (i : Nat) : Bool

/-- The candidate for `SYNC` of 93_implementation_defined.md G1, element 0 the LEAST significant bit. Only tests use it,
as an explicit argument; the machine uses `sync`. Mark: PRESUMED, log entry 1, safe. -/
def candidateSync : BitVec 162 :=
  0x63580CA0E2CDC9045634955858B340A407A47103#162

end Sys2Proof.Config
end

