-- ==== Sys2Proof/WellFormed.lean ====
section
/-! DEFINITION. Which operations are well formed: the domains the rules of the functions state. -/

namespace Sys2Proof

/-- The domain of each operation's arguments: `layout` needs a callsign of at least one character (40_field_packer.md
R126), `bitsched` a step 0..80 (41_conv_encoder.md R153), `place` an address 0..161 (20_memory.md R61). Every other operation
takes every argument (R104, R246). -/
def Instr.wf : Instr → Bool
  | .nop => true
  | .start => true
  | .clear => true
  | .rsvd3 => true
  | .idle => true
  | .pack => true
  | .seedOp => true
  | .shift => true
  | .addr => true
  | .placeOp => true
  | .done => true
  | .err => true
  | .reset => true
  | .value _ => true
  | .check _ _ => true
  | .layout call => decide (call ≠ [])
  | .packN _ => true
  | .packM _ _ => true
  | .bitsched _ _ k => decide (k < Config.steps)
  | .cestep _ => true
  | .parity _ => true
  | .ceinit => true
  | .rev8 _ => true
  | .ilinit => true
  | .ilnext => true
  | .seed => true
  | .place a _ => decide (a.toNat ≤ Config.addrMax)
  | .encode _ _ _ => true

end Sys2Proof
end

