-- ==== Sys2Proof/Decode.lean ====
section
/-! DEFINITION. The encodings of 30_encoding.md: the command word `cmd[1:0]` (R91), the phase code `PH[2:0]` (R93), the 1-bit
port `rst` (R108); the decoder, total on any bytes and rejecting by name, and after it the encoder. -/

namespace Sys2Proof

/-- What selects an operation (R90, R108): the port `cmd`, the register `PH`, the port `rst`. Format F has no word. -/
inductive Format where
  | command
  | phase
  | rst
  deriving DecidableEq, Repr

/-- Why bytes are no operation. -/
inductive DecodeError where
  /-- no byte at all -/
  | noByte
  /-- more than the one byte that holds a word of 1 to 3 bits (R105: one fixed width) -/
  | extraByte
  /-- `rst` = 0 selects no operation (R108) -/
  | rstLow
  deriving DecidableEq, Repr

/-- R91, the column `cmd`. -/
def decodeCommand (w : BitVec 2) : Command :=
  match w.toNat with
  | 0 => .nop
  | 1 => .start
  | 2 => .clear
  | _ => .rsvd3

/-- R93, the column `PH`. -/
def decodePhase (w : BitVec 3) : Phase :=
  match w.toNat with
  | 0 => .idle
  | 1 => .pack
  | 2 => .seed
  | 3 => .shift
  | 4 => .addr
  | 5 => .place
  | 6 => .done
  | _ => .err

/-- The operation a command stands for (R91). -/
def commandInstr : Command → Instr
  | .nop => .nop
  | .start => .start
  | .clear => .clear
  | .rsvd3 => .rsvd3

/-- The operation a phase selects (R93): in a busy phase the micro-operation of that name, in a wait phase the wait. -/
def phaseInstr : Phase → Instr
  | .idle => .idle
  | .pack => .pack
  | .seed => .seedOp
  | .shift => .shift
  | .addr => .addr
  | .place => .placeOp
  | .done => .done
  | .err => .err

/-- The decoder. A word stands in the low bits of one byte; the bits above its width do not exist on the port or in the
register and are not looked at (the table's masks; DESIGN CHOICE, log entry 15, safe). -/
def decode : Format → List Byte → Except DecodeError Instr
  | _, [] => .error .noByte
  | _, _ :: _ :: _ => .error .extraByte
  | .command, [b] => .ok (commandInstr (decodeCommand (b.setWidth 2)))
  | .phase, [b] => .ok (phaseInstr (decodePhase (b.setWidth 3)))
  | .rst, [b] => if b.getLsbD 0 then .ok .reset else .error .rstLow

/-- R91 read from the mnemonic: the word of a command. -/
def Command.code : Command → BitVec 2
  | .nop => 0
  | .start => 1
  | .clear => 2
  | .rsvd3 => 3

/-- R93 read from the name: the code of a phase. -/
def Phase.code : Phase → BitVec 3
  | .idle => 0
  | .pack => 1
  | .seed => 2
  | .shift => 3
  | .addr => 4
  | .place => 5
  | .done => 6
  | .err => 7

/-- The encoder: the format and the byte of an operation; `none` for the functions of format F, which have no bit pattern
(R108). -/
def encode : Instr → Option (Format × List Byte)
  | .nop => some (.command, [Command.nop.code.setWidth 8])
  | .start => some (.command, [Command.start.code.setWidth 8])
  | .clear => some (.command, [Command.clear.code.setWidth 8])
  | .rsvd3 => some (.command, [Command.rsvd3.code.setWidth 8])
  | .idle => some (.phase, [Phase.idle.code.setWidth 8])
  | .pack => some (.phase, [Phase.pack.code.setWidth 8])
  | .seedOp => some (.phase, [Phase.seed.code.setWidth 8])
  | .shift => some (.phase, [Phase.shift.code.setWidth 8])
  | .addr => some (.phase, [Phase.addr.code.setWidth 8])
  | .placeOp => some (.phase, [Phase.place.code.setWidth 8])
  | .done => some (.phase, [Phase.done.code.setWidth 8])
  | .err => some (.phase, [Phase.err.code.setWidth 8])
  | .reset => some (.rst, [1])
  | .value _ => none
  | .check _ _ => none
  | .layout _ => none
  | .packN _ => none
  | .packM _ _ => none
  | .bitsched _ _ _ => none
  | .cestep _ => none
  | .parity _ => none
  | .ceinit => none
  | .rev8 _ => none
  | .ilinit => none
  | .ilnext => none
  | .seed => none
  | .place _ _ => none
  | .encode _ _ _ => none

/-- The format a table word of `nbits` bits is read in: 1 bit is the port `rst`, 2 bits the port `cmd`, anything else, the
whole byte among it, the register `PH`. The three formats share their words (0..3 are commands and phases), so a bare
byte does not name its format; `PH` is what the sequencer dispatches on (10_state.md section 4). DESIGN CHOICE, log entry
8, safe. -/
def tableFormat (nbits : Nat) : Format :=
  if nbits = 1 then .rst else if nbits = 2 then .command else .phase

/-- The operation the decoder reads from a word numbered as spec/opcode_table.json numbers it. -/
def decodeTableWord (nbits w : Nat) : Option Instr :=
  match decode (tableFormat nbits) [BitVec.ofNat 8 w] with
  | .ok i => some i
  | .error _ => none

end Sys2Proof
end

