-- ==== Sys2Proof/Machine/State.lean ====
section
/-! DEFINITION. The state of one instance of the block (10_state.md R20), the values on its input ports (R21), the reasons a step
can stop, and the state after reset (R43). -/

namespace Sys2Proof.Machine

/-- Why the machine stops with a fault. -/
inductive Fault where
  /-- A parity bit is placed at an address above 161, where no element exists (20_memory.md R61). Raised by the function
  `place` on its own; the step never raises it (44_sequencer_host.md R210). Safe: `place` stops; log entry 11. -/
  | noSuchAddress
  deriving DecidableEq, Repr

/-- Why an operation is refused. -/
inductive Refusal where
  /-- The operation has no meaning in the model. Raised by `exec` only. Safe. -/
  | notModelled (mnemonic : String)
  /-- A 163rd draw of the stand-alone interleaver, which a model must refuse (42_interleaver.md R179). Raised by `ilnext`.
  Safe; log entry 12. -/
  | drawsExhausted
  deriving DecidableEq, Repr

/-- The error codes of `ERRC` (10_state.md R39): code 0, 1, 2 and 3 in this order. -/
inductive ErrCode where
  | none
  | invalidArgument
  | allocationFailure
  | reserved
  deriving DecidableEq, Repr

/-- The symbol memory as (address, element) pairs: addresses strictly rising, no element 0 listed. An unlisted element
reads as 0 (DESIGN CHOICE, log entry 13). -/
abbrev Memory := List (Nat × Sym)

/-- The values on the input ports at one rising edge (10_state.md R21). -/
structure Ports where
  rst : Bool
  cmd : BitVec 2
  callLen : BitVec 3
  callCh : Chars6
  locLen : BitVec 3
  locCh : Chars4
  power : BitVec 8
  rdAddr : Byte
  deriving DecidableEq, Repr

/-- Every port low: `rst` = 0 and `cmd` = NOP. -/
def Ports.quiet : Ports :=
  ⟨false, 0, 0, ⟨0, 0, 0, 0, 0, 0⟩, 0, ⟨0, 0, 0, 0⟩, 0, 0⟩

/-- What the last function-level operation returned (the model's own; log entry 5). -/
inductive Ret where
  | nothing
  /-- `value`: 0..36 -/
  | value (v : Nat)
  /-- `check` passed -/
  | ok
  /-- `check` or `encode` failed -/
  | invalidArgument
  /-- `layout` -/
  | chars (b : Chars6)
  /-- `packN` -/
  | packedN (n : PackedN)
  /-- `packM` -/
  | packedM (m : PackedM)
  /-- `bitsched`, `parity` -/
  | bit (b : Bool)
  /-- `rev8`, `ilnext` -/
  | byte (x : Byte)
  /-- `encode` -/
  | message (syms : List Sym)
  deriving DecidableEq, Repr

/-- The state: the spec's registers under the spec's names (10_state.md R20), then the input ports (R21) and the model's own
fields (log entries 4, 5 and 10). -/
structure State where
  /-- `CALL_LEN`, R23 -/
  callLen : BitVec 3
  /-- `CALL[0..5]`, R23 -/
  call : Chars6
  /-- `LOC[0..3]`, R24 -/
  loc : Chars4
  /-- `PWR`, R25 -/
  pwr : BitVec 8
  /-- `BUF[0..5]`, R26 -/
  buf : Chars6
  /-- `N`, R27 -/
  n : PackedN
  /-- `M`, R28 -/
  m : PackedM
  /-- `REG`, R29 -/
  reg : Word
  /-- `P0`, R30 -/
  p0 : Bool
  /-- `P1`, R30 -/
  p1 : Bool
  /-- `CNT`, R31 -/
  cnt : Byte
  /-- `ADDR`, R32 -/
  addr : Byte
  /-- `K`, R34 -/
  k : BitVec 7
  /-- `J`, R35 -/
  j : BitVec 8
  /-- `PH`, R36 -/
  ph : Phase
  /-- `ERRC`, R39 -/
  errc : ErrCode
  /-- `SYM[0..161]`, R33 -/
  sym : Memory
  /-- the input ports at the coming edge, R21 -/
  ports : Ports
  /-- the input ports at the edges after it -/
  script : List Ports
  /-- the result of the last function-level operation -/
  ret : Ret
  /-- how many free values have been taken -/
  freeCount : Nat
  deriving DecidableEq, Repr

/-- The state after reset: `PH` = IDLE and `ERRC` = 0 as R43 says, every other register 0 (DESIGN CHOICE, log entry 2), no symbol
listed (log entry 13), the host quiet (log entry 4). -/
def State.reset : State where
  callLen := 0
  call := ⟨0, 0, 0, 0, 0, 0⟩
  loc := ⟨0, 0, 0, 0⟩
  pwr := 0
  buf := ⟨0, 0, 0, 0, 0, 0⟩
  n := 0
  m := 0
  reg := 0
  p0 := false
  p1 := false
  cnt := 0
  addr := 0
  k := 0
  j := 0
  ph := .idle
  errc := .none
  sym := []
  ports := Ports.quiet
  script := []
  ret := .nothing
  freeCount := 0

end Sys2Proof.Machine
end

