-- ==== Sys2Proof/Machine/Operands.lean ====
section
/-! DEFINITION. The operand forms: characters by index (00_scope.md R12), the character classes (30_encoding.md R98), and how a host
presents a callsign, a locator and a power on the ports (R94 to R96). -/

namespace Sys2Proof.Machine

/-- Character `i` of six; the last one for every `i` above 5, which no rule asks for. -/
def charAt6 (b : Chars6) : Nat → Byte
  | 0 => b.c0
  | 1 => b.c1
  | 2 => b.c2
  | 3 => b.c3
  | 4 => b.c4
  | _ => b.c5

/-- Character `i` of four; the last one for every `i` above 3, which no rule asks for. -/
def charAt4 (b : Chars4) : Nat → Byte
  | 0 => b.c0
  | 1 => b.c1
  | 2 => b.c2
  | _ => b.c3

/-- Six characters given by their index. -/
def chars6 (f : Nat → Byte) : Chars6 := ⟨f 0, f 1, f 2, f 3, f 4, f 5⟩

/-- Four characters given by their index. -/
def chars4 (f : Nat → Byte) : Chars4 := ⟨f 0, f 1, f 2, f 3⟩

/-- The first six characters of a string; positions at and after its end hold 0 and are read by no rule (R94). -/
def firstSix (s : List Byte) : Chars6 := chars6 fun i => s.getD i 0

/-- The first four characters of a string; positions at and after its end hold 0 and are read by no rule (R95). -/
def firstFour (s : List Byte) : Chars4 := chars4 fun i => s.getD i 0

/-- `isdigit(c)`, R98. -/
def isDigit (c : Byte) : Bool := decide (48 ≤ c.toNat ∧ c.toNat ≤ 57)

/-- `isupper(c)`, R98. -/
def isUpper (c : Byte) : Bool := decide (65 ≤ c.toNat ∧ c.toNat ≤ 90)

/-- `islower(c)`, R98. -/
def isLower (c : Byte) : Bool := decide (97 ≤ c.toNat ∧ c.toNat ≤ 122)

/-- `isspace(c)`, R98. -/
def isSpace (c : Byte) : Bool := decide (c.toNat = 32)

/-- A length as the host presents it on a 3-bit port: `min(len, 7)` (R94, R95, R276). -/
def presentLen (len : Nat) : BitVec 3 := BitVec.ofNat 3 (min len 7)

/-- The ports at the edge of `RESET` (R107). The spec lets `cmd`, the operand ports and `rd_addr` hold anything there; they
are 0 (DESIGN CHOICE, log entry 23). -/
def resetPorts : Ports := { Ports.quiet with rst := true }

/-- The ports at the edge of a command word `c` without operands (R91, R107): of `NOP`, `CLEAR`, the reserved command and each
edge of `WAIT`. The spec lets the operand ports and `rd_addr` hold anything there; they are 0 (DESIGN CHOICE, log entry
23). -/
def commandPorts (c : BitVec 2) : Ports := { Ports.quiet with cmd := c }

/-- The ports at the edge of `START "<call>", "<loc>", <p>` (R94 to R96, R107). The spec lets `rd_addr` and the characters
after a string's end hold anything there; they are 0 (DESIGN CHOICE, log entries 22 and 23). -/
def startPorts (call loc : List Byte) (p : Int) : Ports :=
  { Ports.quiet with
    cmd := 1
    callLen := presentLen call.length
    callCh := firstSix call
    locLen := presentLen loc.length
    locCh := firstFour loc
    power := BitVec.ofInt 8 p }

end Sys2Proof.Machine
end

