-- ==== Sys2Proof/Machine/Flags.lean ====
section
/-! DEFINITION. The flags: the status flags, pure functions of `PH`, and the output ports (10_state.md R22, R38), and the parity that
gives the data flags `P0` and `P1` (41_conv_encoder.md R152, R154). -/

namespace Sys2Proof.Machine

/-- `popcount(x)`: the number of 1 bits (00_scope.md R11). -/
def popcount (x : Word) : Nat :=
  ((List.range 32).map fun i => (x.getLsbD i).toNat).sum

/-- `parity(x) = popcount(x) mod 2` (R152). -/
def parityBit (x : Word) : Bool := decide (popcount x % 2 = 1)

/-- `P0` of the register after a step: `parity(REG' & POLY0)` (R154). -/
def flagP0 (r : Word) : Bool := parityBit (r &&& Config.poly0)

/-- `P1` of the register after a step: `parity(REG' & POLY1)` (R154). -/
def flagP1 (r : Word) : Bool := parityBit (r &&& Config.poly1)

/-- `busy` = 1 iff `PH` is PACK, SEED, SHIFT, ADDR or PLACE (R22). -/
def busyPhase : Phase → Bool
  | .idle => false
  | .pack => true
  | .seed => true
  | .shift => true
  | .addr => true
  | .place => true
  | .done => false
  | .err => false

/-- The 2-bit code of an error (10_state.md R39, 30_encoding.md R101). -/
def errorCode : ErrCode → BitVec 2
  | .none => 0
  | .invalidArgument => 1
  | .allocationFailure => 2
  | .reserved => 3

/-- The output ports (R22). -/
structure Outputs where
  busy : Bool
  done : Bool
  err : Bool
  errCode : BitVec 2
  rdData : Sym
  deriving DecidableEq, Repr

end Sys2Proof.Machine
end

