-- ==== Sys2Proof/Machine/Ops.lean ====
section
/-! DEFINITION. The shared operations over the symbol memory and the registers: element read and write, error entry and return,
latching, counting, the read port, and what a clock edge fetches and advances. -/

namespace Sys2Proof.Machine

/-! ### The symbol memory (20_memory.md) -/

/-- `MemRead(a)`: element `a`, 0 where none is listed (00_scope.md R13). -/
def Memory.read : Memory → Nat → Sym
  | [], _ => 0
  | (b, v) :: rest, a => if a = b then v else Memory.read rest a

/-- The memory that lists `v` at `a` in front of `rest`, or only `rest` if `v` is what an unlisted element reads as. -/
def Memory.cons (a : Nat) (v : Sym) (rest : Memory) : Memory :=
  if v = 0 then rest else (a, v) :: rest

/-- `MemWrite(a, v)`, keeping the canonical form (00_scope.md R13). -/
def Memory.write : Memory → Nat → Sym → Memory
  | [], a, v => Memory.cons a v []
  | (b, w) :: rest, a, v =>
    if a < b then Memory.cons a v ((b, w) :: rest)
    else if a = b then Memory.cons a v rest
    else (b, w) :: Memory.write rest a v

/-- The elements `lo .. lo + count - 1`, element `a` being `f a`. -/
def Memory.fillFrom (f : Nat → Sym) : Nat → Nat → Memory
  | 0, _ => []
  | count + 1, lo => Memory.cons lo (f lo) (Memory.fillFrom f count (lo + 1))

/-- All 162 elements at once (20_memory.md R64, R67). -/
def Memory.fill (f : Nat → Sym) : Memory := Memory.fillFrom f Config.nsym 0

/-- The canonical form from address `lo` on. -/
def Memory.wfFrom : Nat → Memory → Bool
  | _, [] => true
  | lo, (a, v) :: rest =>
    decide (lo ≤ a) && decide (a ≤ Config.addrMax) && decide (v ≠ 0) && Memory.wfFrom (a + 1) rest

/-- The canonical form: addresses strictly rising in 0..161, no element 0 listed. -/
def Memory.wf (m : Memory) : Bool := Memory.wfFrom 0 m

/-! ### Status and the read port (10_state.md R22) -/

def State.busy (s : State) : Bool := busyPhase s.ph

def State.done (s : State) : Bool := decide (s.ph = .done)

def State.err (s : State) : Bool := decide (s.ph = .err)

def State.idle (s : State) : Bool := decide (s.ph = .idle)

def State.errCode (s : State) : BitVec 2 := errorCode s.errc

/-- `READ a`: `rd_data` with `a` on `rd_addr` (44_sequencer_host.md R215). -/
def State.rdData (s : State) (a : Byte) : Sym :=
  if s.done && decide (a.toNat ≤ Config.addrMax) then s.sym.read a.toNat else 0

/-- The output ports, with `rd_addr` as the host drives it (R22). -/
def State.outputs (s : State) : Outputs :=
  { busy := s.busy, done := s.done, err := s.err, errCode := s.errCode, rdData := s.rdData s.ports.rdAddr }

/-- The 162 symbols in address order as the read port shows them: `READALL` (30_encoding.md R107). -/
def State.readAll (s : State) : List Sym :=
  (List.range Config.nsym).map fun a => s.rdData (BitVec.ofNat 8 a)

/-! ### The error and the return from it (60_exceptions.md) -/

/-- `raise InvalidArgument`, the whole effect (R243). -/
def State.raiseInvalidArgument (s : State) : State :=
  { s with ph := .err, errc := .invalidArgument }

/-- Leaving the error, or giving the buffer back: what `CLEAR` does (R249, 44_sequencer_host.md R213). -/
def State.clearToIdle (s : State) : State :=
  { s with ph := .idle, errc := .none }

/-! ### Register updates -/

/-- `PH <- p` (00_scope.md R13). -/
def State.goto (s : State) (p : Phase) : State := { s with ph := p }

/-- The result of a function-level operation (log entry 5). -/
def State.returns (s : State) (r : Ret) : State := { s with ret := r }

/-- An accepted `START` without error: the operands on the ports are latched (44_sequencer_host.md R212). -/
def State.latch (s : State) : State :=
  { s with
    callLen := s.ports.callLen
    call := s.ports.callCh
    loc := s.ports.locCh
    pwr := s.ports.power
    errc := .none
    ph := .pack }

/-- The free values an operation has taken are not taken again (log entry 10). -/
def State.tookFree (s : State) (count : Nat) : State := { s with freeCount := s.freeCount + count }

/-- `K <- K + 1`. `K` never exceeds 81 (10_state.md R34); above 127 no rule gives a value and a free one is taken (DESIGN
CHOICE, log entry 10). -/
def State.incK (s : State) : State :=
  { s with
    k := if s.k.toNat < 127 then s.k + 1 else Config.free 7 s.freeCount
    freeCount := s.freeCount + (if s.k.toNat < 127 then 0 else 1) }

/-- `J <- J + 1`. `J` never exceeds 162 (10_state.md R35); above 255 no rule gives a value and a free one is taken (DESIGN
CHOICE, log entry 10). -/
def State.incJ (s : State) : State :=
  { s with
    j := if s.j.toNat < 255 then s.j + 1 else Config.free 8 s.freeCount
    freeCount := s.freeCount + (if s.j.toNat < 255 then 0 else 1) }

/-- A buffer of which no rule gives an element: 162 free values (log entries 3 and 11). -/
def State.freeMemory (s : State) : Memory := Memory.fill fun a => Config.free 2 (s.freeCount + a)

/-- `RESET` (70_reset_and_hazards.md R270): `PH` and `ERRC` are set, every other register becomes unspecified, that is
free (DESIGN CHOICE, log entry 3). The ports and the model's own result are no registers of the block. -/
def State.resetRegisters (s : State) : State :=
  { s with
    callLen := Config.free 3 s.freeCount
    call := chars6 fun i => Config.free 8 (s.freeCount + i)
    loc := chars4 fun i => Config.free 8 (s.freeCount + 6 + i)
    pwr := Config.free 8 (s.freeCount + 10)
    buf := chars6 fun i => Config.free 8 (s.freeCount + 11 + i)
    n := Config.free 28 s.freeCount
    m := Config.free 22 s.freeCount
    reg := Config.free 32 s.freeCount
    p0 := Config.freeBit s.freeCount
    p1 := Config.freeBit (s.freeCount + 1)
    cnt := Config.free 8 (s.freeCount + 17)
    addr := Config.free 8 (s.freeCount + 18)
    k := Config.free 7 s.freeCount
    j := Config.free 8 (s.freeCount + 19)
    ph := .idle
    errc := .none
    sym := s.freeMemory
    freeCount := s.freeCount + Config.nsym }

/-! ### One rising edge -/

/-- What the edge performs (44_sequencer_host.md R210): the reset if `rst` = 1, else what the phase code selects. -/
def State.fetch (s : State) : Instr :=
  if s.ports.rst then .reset else phaseInstr s.ph

/-- After the edge the host drives its next port values; a host with nothing more to say holds the last ones (DESIGN
CHOICE, log entry 4). -/
def State.advance (s : State) : State :=
  { s with ports := s.script.headD s.ports, script := s.script.tail }

/-- An outcome with its next state, if there is one, changed by `f`. -/
def mapNext (f : State → State) : Host.Outcome State Fault Refusal → Host.Outcome State Fault Refusal
  | .next s => .next (f s)
  | .fault r => .fault r
  | .refused r => .refused r

/-- The state in which the coming edge performs the operation of a word of the given format: the port `rst` low and the
phase register holding the word; for a command word, the word on `cmd` in a wait phase; for a word of the port
`rst`, its bit on that port (log entries 8 and 9). -/
def placeWord (s : State) : Format → Byte → State
  | .phase, b => { s with ph := decodePhase (b.setWidth 3), ports := { s.ports with rst := false } }
  | .command, b =>
    { s with
      ph := if s.busy then .idle else s.ph
      ports := { s.ports with rst := false, cmd := b.setWidth 2 } }
  | .rst, b => { s with ports := { s.ports with rst := b.getLsbD 0 } }

end Sys2Proof.Machine
end

