-- ==== Sys2Proof/Machine/ConvEncoder.lean ====
section
/-! DEFINITION. The sub-block convolutional_encoder_rate1_2_k32 (41_conv_encoder.md): `CE.INIT`, `parity`, `bitsched`, `CE.SHIFT`, the whole
stream `conv`, and the micro-operation `SHIFT` (44_sequencer_host.md R220). -/

namespace Sys2Proof.Machine

/-- `bitsched(N, M, k)` (R153), `none` above 80, where the rule gives no bit. -/
def schedBit (n : PackedN) (m : PackedM) (k : Nat) : Option Bool :=
  if k ≤ 27 then some (n.getLsbD (27 - k))
  else if k ≤ 49 then some (m.getLsbD (21 - (k - 28)))
  else if k ≤ 80 then some false
  else none

/-- `bitsched` where it gives a bit, else a free one (DESIGN CHOICE, log entry 10). -/
def schedBitOrFree (n : PackedN) (m : PackedM) (k i : Nat) : Bool :=
  (schedBit n m k).getD (Config.freeBit i)

/-- How many free values `schedBitOrFree` takes. -/
def schedFreeTaken (k : Nat) : Nat := if k ≤ 80 then 0 else 1

/-- The register after one step: `((REG << 1) | b) mod 2^32` (R154). -/
def shiftIn (r : Word) (b : Bool) : Word := (r <<< 1) ||| (if b then 1 else 0)

/-- `CE.SHIFT` on the registers (R154): both parities are of the register after the shift. -/
def State.ceStep (s : State) (b : Bool) : State :=
  { s with reg := shiftIn s.reg b, p0 := flagP0 (shiftIn s.reg b), p1 := flagP1 (shiftIn s.reg b) }

/-- `CE.INIT` on the registers (R151). -/
def State.ceInit (s : State) : State := { s with reg := 0 }

/-- The registers after `count` steps from step `k` with the register at `r`, each with its two parity bits in
emission order (R150, R155). -/
def convFrom (n : PackedN) (m : PackedM) : Nat → Nat → Word → List Bool
  | 0, _, _ => []
  | count + 1, k, r =>
    let r' := shiftIn r ((schedBit n m k).getD false)
    flagP0 r' :: flagP1 r' :: convFrom n m count (k + 1) r'

/-- `conv(N, M)`: the 162 parity bits in emission order (R150). -/
def conv (n : PackedN) (m : PackedM) : List Bool := convFrom n m Config.steps 0 0

/-- `REG_k` of R150: the register after step `k`. -/
def convReg (n : PackedN) (m : PackedM) : Nat → Word
  | 0 => shiftIn 0 ((schedBit n m 0).getD false)
  | k + 1 => shiftIn (convReg n m k) ((schedBit n m (k + 1)).getD false)

/-- `bitsched`, R153. -/
def execBitsched (n : PackedN) (m : PackedM) (k : Nat) (s : State) : Host.Outcome State Fault Refusal :=
  .next ((s.returns (.bit (schedBitOrFree n m k s.freeCount))).tookFree (schedFreeTaken k))

/-- `cestep`, R154. -/
def execCestep (b : Bool) (s : State) : Host.Outcome State Fault Refusal :=
  .next (s.ceStep b)

/-- `parity`, R152. -/
def execParity (x : Word) (s : State) : Host.Outcome State Fault Refusal :=
  .next (s.returns (.bit (parityBit x)))

/-- `ceinit`, R151. -/
def execCeinit (s : State) : Host.Outcome State Fault Refusal :=
  .next s.ceInit

/-- `SHIFT`, R220: one step with the scheduled bit, then `K <- K + 1` and `PH <- ADDR`. -/
def execShift (s : State) : Host.Outcome State Fault Refusal :=
  let b := schedBitOrFree s.n s.m s.k.toNat s.freeCount
  .next ((((s.tookFree (schedFreeTaken s.k.toNat)).ceStep b).incK).goto .addr)

end Sys2Proof.Machine
end

