-- ==== Sys2Proof/Machine/FieldPacker.lean ====
section
/-! DEFINITION. The sub-block field_packer_with_char_mapper (40_field_packer.md): `value`, `check`, `layout`, `packN`, `packM`, and the
micro-operation `PACK` (44_sequencer_host.md R218). -/

namespace Sys2Proof.Machine

/-- `value(c)` (R121): every code has a value, no code is an error. -/
def charValue (c : Byte) : Nat :=
  if isDigit c then c.toNat - 48
  else if isUpper c then c.toNat - 65 + 10
  else if isLower c then c.toNat - 97 + 10
  else if isSpace c then 36
  else 0

/-- `check(call_len, loc_len)` (R124): `true` is ok. The callsign is tested first (60_exceptions.md R247). -/
def checkLens (callLen locLen : Nat) : Bool :=
  if callLen = 0 then false
  else if locLen ≠ Config.locLenReq then false
  else true

/-- `layout` of a callsign of length `len` (R126): branch A copies up to 5 characters to positions 1..5, branch B up to 6
to positions 0..5, branch C copies nothing; the rest is spaces. For `len` = 0 (outside the rule's precondition) this is
branch C (DEDUCED, log entry 14). -/
def layoutChars (len : Nat) (call : Chars6) : Chars6 :=
  if 2 ≤ len ∧ isDigit (charAt6 call 1) then
    chars6 fun i => if 1 ≤ i ∧ i ≤ min len 5 then charAt6 call (i - 1) else 32
  else if 3 ≤ len ∧ isDigit (charAt6 call 2) then
    chars6 fun i => if i < min len 6 then charAt6 call i else 32
  else chars6 fun _ => 32

/-- `n5` of R128, in the integers. -/
def packNInt (b : Chars6) : Int :=
  let v (i : Nat) : Int := charValue (charAt6 b i)
  let n1 := v 0 * 36 + v 1
  let n2 := n1 * 10 + v 2
  let n3 := n2 * 27 + v 3 - 10
  let n4 := n3 * 27 + v 4 - 10
  n4 * 27 + v 5 - 10

/-- `packN(BUF)` (R128): `n5 mod 2^28`. -/
def packNField (b : Chars6) : PackedN := BitVec.ofInt 28 (packNInt b)

/-- `M1` of R130, in the integers, on the raw codes. -/
def packM1 (loc : Chars4) : Int :=
  let c (i : Nat) : Int := (charAt4 loc i).toNat
  (179 - 10 * (c 0 - 65) - (c 2 - 48)) * 180 + 10 * (c 1 - 65) + (c 3 - 48)

/-- `m` of R130, in the integers. -/
def packMInt (loc : Chars4) (p : Int) : Int := packM1 loc * 128 + p + 64

/-- `packM(loc, p)` (R130): `m mod 2^22`. -/
def packMField (loc : Chars4) (p : Int) : PackedM := BitVec.ofInt 22 (packMInt loc p)

/-- The composition of the sub-block (R120): `none` is `InvalidArgument`, raised before anything else is computed (R125). -/
def packStrings (call loc : List Byte) (p : Int) : Option (PackedN × PackedM) :=
  if checkLens call.length loc.length then
    some (packNField (layoutChars call.length (firstSix call)), packMField (firstFour loc) p)
  else none

/-- The micro-operation `PACK` on the registers (R218): `N` is computed from the new buffer. -/
def State.packFields (s : State) : State :=
  { s with
    buf := layoutChars s.callLen.toNat s.call
    n := packNField (layoutChars s.callLen.toNat s.call)
    m := packMField s.loc s.pwr.toInt
    ph := .seed }

/-- `value`, R121. -/
def execValue (c : Byte) (s : State) : Host.Outcome State Fault Refusal :=
  .next (s.returns (.value (charValue c)))

/-- `check`, R124, R125: reads and writes no register. -/
def execCheck (callLen locLen : Nat) (s : State) : Host.Outcome State Fault Refusal :=
  .next (s.returns (if checkLens callLen locLen then .ok else .invalidArgument))

/-- `layout`, R126. -/
def execLayout (call : List Byte) (s : State) : Host.Outcome State Fault Refusal :=
  .next (s.returns (.chars (layoutChars call.length (firstSix call))))

/-- `packN`, R128. -/
def execPackN (buf : Chars6) (s : State) : Host.Outcome State Fault Refusal :=
  .next (s.returns (.packedN (packNField buf)))

/-- `packM`, R130. -/
def execPackM (loc : Chars4) (p : Int) (s : State) : Host.Outcome State Fault Refusal :=
  .next (s.returns (.packedM (packMField loc p)))

/-- `PACK`, R218. -/
def execPack (s : State) : Host.Outcome State Fault Refusal :=
  .next s.packFields

end Sys2Proof.Machine
end

