-- ==== Sys2Proof/Machine/Interleaver.lean ====
section
/-! DEFINITION. The sub-block bit_reversal_interleaver_with_skip (42_interleaver.md): `rev8`, `IL.INIT`, the draw `IL.NEXT`, and the
micro-operation `ADDR` (44_sequencer_host.md R221). -/

namespace Sys2Proof.Machine

/-- `rev8(x)` by the weights of R171. -/
def rev8Bits (x : Byte) : Byte :=
  BitVec.ofNat 8
    (128 * (x.getLsbD 0).toNat + 64 * (x.getLsbD 1).toNat + 32 * (x.getLsbD 2).toNat + 16 * (x.getLsbD 3).toNat
      + 8 * (x.getLsbD 4).toNat + 4 * (x.getLsbD 5).toNat + 2 * (x.getLsbD 6).toNat + (x.getLsbD 7).toNat)

/-- The reversed value is kept: it does not exceed 161 (R174). -/
def keeps (c : Byte) : Bool := decide ((rev8Bits c).toNat ≤ Config.addrMax)

/-- One draw from the counter `c` (R174), examining at most `fuel` counter values: the address and the counter after it. -/
def drawWithin : Nat → Byte → Option (Byte × Byte)
  | 0, _ => none
  | fuel + 1, c => if keeps c then some (rev8Bits c, c + 1) else drawWithin fuel (c + 1)

/-- One draw of the stand-alone interleaver: refused at the counter 255, which 162 draws leave (R178, R179; DEDUCED, log entry 12);
the loop is bounded by the 256-value counter space (R175). -/
def draw (c : Byte) : Option (Byte × Byte) :=
  if c = 255 then none else drawWithin 256 c

/-- The first `count` addresses drawn from the counter `c`, in order (R170). -/
def drawAddrs : Nat → Byte → List Byte
  | 0, _ => []
  | count + 1, c =>
    match draw c with
    | some (a, c') => a :: drawAddrs count c'
    | none => []

/-- `addr_0 .. addr_161`, the sequence of every encode (R170, R176). -/
def addrSeq : List Byte := drawAddrs Config.nsym 0

/-- How many of the counter values below `c` are kept: the draws already made when the counter is `c` (R175, R177). -/
def keptBelow (c : Nat) : Nat :=
  ((List.range c).filter fun x => keeps (BitVec.ofNat 8 x)).length

/-- `j(a)`: the draw that returns the address `a` (R177). -/
def drawOf (a : Nat) : Nat := keptBelow (rev8Bits (BitVec.ofNat 8 a)).toNat

/-- `IL.INIT` on the registers (R172). -/
def State.ilInit (s : State) : State := { s with cnt := 0 }

/-- `rev8`, R171. -/
def execRev8 (x : Byte) (s : State) : Host.Outcome State Fault Refusal :=
  .next (s.returns (.byte (rev8Bits x)))

/-- `ilinit`, R172. -/
def execIlinit (s : State) : Host.Outcome State Fault Refusal :=
  .next s.ilInit

/-- `ilnext`, R174, R179: the address is returned and `CNT` moves past every value examined. -/
def execIlnext (s : State) : Host.Outcome State Fault Refusal :=
  match draw s.cnt with
  | some (a, c) => .next { s with ret := .byte a, cnt := c }
  | none => .refused .drawsExhausted

/-- `ADDR`, R221: one iteration of a draw. -/
def execAddr (s : State) : Host.Outcome State Fault Refusal :=
  if keeps s.cnt then .next { s with cnt := s.cnt + 1, addr := rev8Bits s.cnt, ph := .place }
  else .next { s with cnt := s.cnt + 1, ph := .addr }

end Sys2Proof.Machine
end

