-- ==== Sys2Proof/Machine/Assembler.lean ====
section
/-! DEFINITION. The sub-block message_assembler_sync_inject (43_assembler.md): `MA.SEED`, `MA.PLACE`, the whole function `encode`, and the
micro-operations `SEED` and `PLACE` (44_sequencer_host.md R219, R222). -/

namespace Sys2Proof.Machine

/-- Element `a` of a sync vector as a symbol: `zext_2(RomRead(a))` (20_memory.md R67). -/
def syncSym (sync : BitVec 162) (a : Nat) : Sym := BitVec.ofNat 2 (sync.getLsbD a).toNat

/-- The buffer after `MA.SEED` (R192). -/
def seedMemory (sync : BitVec 162) : Memory := Memory.fill (syncSym sync)

/-- The sum `v + 2*p` is a symbol value 0..3 (20_memory.md R66). -/
def fitsSym (v : Sym) (p : Bool) : Bool := decide (v.toNat + 2 * p.toNat ≤ 3)

/-- `v + 2*p` as an element; where it leaves 0..3 no rule gives the element (R66 forbids relying on a wrap), and it is
`other` (log entry 10). -/
def addParity (other v : Sym) (p : Bool) : Sym :=
  if fitsSym v p then BitVec.ofNat 2 (v.toNat + 2 * p.toNat) else other

/-- `MemWrite(a, MemRead(a) + 2*p)` (R193, 20_memory.md R65). -/
def Memory.addAt (other : Sym) (m : Memory) (a : Nat) (p : Bool) : Memory :=
  m.write a (addParity other (m.read a) p)

/-- `MA.PLACE` at an existing element (R193); a sum above 3 takes a free value (DESIGN CHOICE, log entry 10). -/
def State.addElement (s : State) (a : Nat) (p : Bool) : State :=
  { s with
    sym := s.sym.addAt (Config.free 2 s.freeCount) a p
    freeCount := s.freeCount + (if fitsSym (s.sym.read a) p then 0 else 1) }

/-- No rule says what the buffer holds: every element is free (log entry 11). -/
def State.loseSym (s : State) : State :=
  { s with sym := s.freeMemory, freeCount := s.freeCount + Config.nsym }

/-- `MA.PLACE` as a function of its arguments: an address above 161 does not exist (20_memory.md R61; DEDUCED, log
entry 11). -/
def placeAt (a : Byte) (p : Bool) (s : State) : Host.Outcome State Fault Refusal :=
  if a.toNat ≤ Config.addrMax then .next (s.addElement a.toNat p) else .fault .noSuchAddress

/-- `MA.SEED` on the state (R192). -/
def State.seedSym (s : State) : State := { s with sym := seedMemory Config.sync }

/-- `K <- 0`, `J <- 0` (44_sequencer_host.md R219). -/
def State.clearCounts (s : State) : State := { s with k := 0, j := 0 }

/-- The buffer after the parity bits have been placed at the addresses, in this order (R193, R195). -/
def assemble (other : Sym) (m : Memory) : List Bool → List Byte → Memory
  | p :: ps, a :: as => assemble other (m.addAt other a.toNat p) ps as
  | [], _ => m
  | _ :: _, [] => m

/-- The buffer of the packed fields `n`, `m` under a sync vector (R195, from `conv` on). -/
def assembleFields (sync : BitVec 162) (other : Sym) (n : PackedN) (m : PackedM) : Memory :=
  assemble other (seedMemory sync) (conv n m) addrSeq

/-- `encode` under a sync vector (R195): `none` is `InvalidArgument`. `other` is what a symbol sum above 3 would give; no
encode uses it (20_memory.md R66). -/
def encodeWith (sync : BitVec 162) (other : Sym) (call loc : List Byte) (p : Int) : Option (List Sym) :=
  match packStrings call loc p with
  | some (n, m) => some ((List.range Config.nsym).map (assembleFields sync other n m).read)
  | none => none

/-- `seed`, R192. -/
def execSeed (s : State) : Host.Outcome State Fault Refusal :=
  .next s.seedSym

/-- `place`, R193. -/
def execPlace (a : Byte) (p : Bool) (s : State) : Host.Outcome State Fault Refusal :=
  placeAt a p s

/-- `encode`, R195: a function of its arguments and the constants; no register changes. -/
def execEncode (call loc : List Byte) (p : Int) (s : State) : Host.Outcome State Fault Refusal :=
  match encodeWith Config.sync (Config.free 2 s.freeCount) call loc p with
  | some syms => .next (s.returns (.message syms))
  | none => .next (s.returns .invalidArgument)

/-- `SEED`, R219. -/
def execSeedOp (s : State) : Host.Outcome State Fault Refusal :=
  .next (s.seedSym.ceInit.ilInit.clearCounts.goto .shift)

/-- The parity bit that `PLACE` places: `P0` if `J` is even, else `P1` (R222). -/
def State.placeBit (s : State) : Bool := if s.j.getLsbD 0 then s.p1 else s.p0

/-- The phase after `PLACE`, from `J` and `K` before the edge (R222, R224). -/
def State.afterPlace (s : State) : Phase :=
  if s.j.getLsbD 0 then (if s.k.toNat = Config.steps then .done else .shift) else .addr

/-- The buffer write of `PLACE` (R222). The step is total (R210), so `PLACE` has a next state also where `ADDR` is above
161, for which no rule gives the write: the buffer is free there (DESIGN CHOICE, log entry 11). -/
def State.placeLatched (s : State) : State :=
  if s.addr.toNat ≤ Config.addrMax then s.addElement s.addr.toNat s.placeBit else s.loseSym

/-- `PLACE`, R222. -/
def execPlaceOp (s : State) : Host.Outcome State Fault Refusal :=
  .next (s.placeLatched.incJ.goto s.afterPlace)

end Sys2Proof.Machine
end

