-- ==== Sys2Proof/Machine/HostInterface.lean ====
section
/-! DEFINITION. The host commands, the wait phases and the reset (44_sequencer_host.md R211 to R214, R223; 70_reset_and_hazards.md R270). -/

namespace Sys2Proof.Machine

/-- An accepted `START` (R212): the check comes before any register changes. -/
def startAccepted (s : State) : Host.Outcome State Fault Refusal :=
  if checkLens s.ports.callLen.toNat s.ports.locLen.toNat then .next s.latch
  else .next s.raiseInvalidArgument

/-- The host command of the edge (R210 case 3, R223): looked at in a wait phase only (R214). -/
def hostCommand (s : State) : Host.Outcome State Fault Refusal :=
  if s.busy then .next s
  else
    match decodeCommand s.ports.cmd with
    | .nop => .next s
    | .start => startAccepted s
    | .clear => .next s.clearToIdle
    | .rsvd3 => .next s

/-- `NOP`, R211. -/
def execNop (s : State) : Host.Outcome State Fault Refusal :=
  .next s

/-- `START`, R212; while `busy` it has no effect and leaves no trace (R214; DEDUCED, log entry 6). -/
def execStart (s : State) : Host.Outcome State Fault Refusal :=
  if s.busy then .next s else startAccepted s

/-- `CLEAR`, R213; while `busy` it has no effect and leaves no trace (R214; DEDUCED, log entry 6). -/
def execClear (s : State) : Host.Outcome State Fault Refusal :=
  if s.busy then .next s else .next s.clearToIdle

/-- The reserved command 3 behaves as `NOP` in every phase (30_encoding.md R103). -/
def execRsvd3 (s : State) : Host.Outcome State Fault Refusal :=
  .next s

/-- The wait phase `IDLE`, R223: no micro-operation, the host command of the edge. -/
def execIdle (s : State) : Host.Outcome State Fault Refusal :=
  hostCommand s

/-- The wait phase `DONE`, R223. -/
def execDone (s : State) : Host.Outcome State Fault Refusal :=
  hostCommand s

/-- The wait phase `ERR`, R223. -/
def execErr (s : State) : Host.Outcome State Fault Refusal :=
  hostCommand s

/-- `RESET`, R270: whatever the phase, the command and every other input. -/
def execReset (s : State) : Host.Outcome State Fault Refusal :=
  .next s.resetRegisters

end Sys2Proof.Machine
end

