-- ==== Sys2Proof/Machine/Dispatch.lean ====
section
/-! DEFINITION. One arm per constructor of `Instr`: the meaning of each operation. -/

namespace Sys2Proof.Machine

def exec (i : Instr) (s : State) : Host.Outcome State Fault Refusal :=
  match i with
  | .nop => Sys2Proof.Machine.execNop s
  | .start => Sys2Proof.Machine.execStart s
  | .clear => Sys2Proof.Machine.execClear s
  | .rsvd3 => Sys2Proof.Machine.execRsvd3 s
  | .idle => Sys2Proof.Machine.execIdle s
  | .pack => Sys2Proof.Machine.execPack s
  | .seedOp => Sys2Proof.Machine.execSeedOp s
  | .shift => Sys2Proof.Machine.execShift s
  | .addr => Sys2Proof.Machine.execAddr s
  | .placeOp => Sys2Proof.Machine.execPlaceOp s
  | .done => Sys2Proof.Machine.execDone s
  | .err => Sys2Proof.Machine.execErr s
  | .reset => Sys2Proof.Machine.execReset s
  | .value c => Sys2Proof.Machine.execValue c s
  | .check callLen locLen => Sys2Proof.Machine.execCheck callLen locLen s
  | .layout call => Sys2Proof.Machine.execLayout call s
  | .packN buf => Sys2Proof.Machine.execPackN buf s
  | .packM loc p => Sys2Proof.Machine.execPackM loc p s
  | .bitsched n m k => Sys2Proof.Machine.execBitsched n m k s
  | .cestep b => Sys2Proof.Machine.execCestep b s
  | .parity x => Sys2Proof.Machine.execParity x s
  | .ceinit => Sys2Proof.Machine.execCeinit s
  | .rev8 x => Sys2Proof.Machine.execRev8 x s
  | .ilinit => Sys2Proof.Machine.execIlinit s
  | .ilnext => Sys2Proof.Machine.execIlnext s
  | .seed => Sys2Proof.Machine.execSeed s
  | .place a p => Sys2Proof.Machine.execPlace a p s
  | .encode call loc p => Sys2Proof.Machine.execEncode call loc p s

end Sys2Proof.Machine
end

