-- ==== Sys2Proof/Machine/Step.lean ====
section
/-! DEFINITION. One step: one rising edge of `clk` (44_sequencer_host.md R210), and how a table word is set up to run next. -/

namespace Sys2Proof.Machine

/-- One rising edge: perform the operation the edge selects; after it the host drives its next port values. -/
def step (s : State) : Host.Outcome State Fault Refusal :=
  mapNext State.advance (exec s.fetch s)

/-- `s` with a table word placed where the next edge selects its operation (log entries 8 and 9). -/
def State.withFetchWord (s : State) (nbits w : Nat) : State :=
  placeWord s (tableFormat nbits) (BitVec.ofNat 8 w)

end Sys2Proof.Machine
end

