-- ==== Sys2Proof/Machine/HostProgram.lean ====
section
/-! DEFINITION. The host's syntax (30_encoding.md R107): one line per clock edge, and the pseudo-operations WAIT, ENCODE, READALL. -/

namespace Sys2Proof.Machine

/-- One edge with the ports driven to `p`, whatever the host would have driven (log entry 23). -/
def drive (p : Ports) (s : State) : Host.Outcome State Fault Refusal :=
  step { s with ports := p, script := [] }

/-- `WAIT`: `NOP` repeated until `busy` = 0, at most `fuel` edges. -/
def waitIdle : Nat → State → Host.Outcome State Fault Refusal
  | 0, s => .next s
  | fuel + 1, s =>
    if s.busy then
      match drive (commandPorts 0) s with
      | .next t => waitIdle fuel t
      | .fault r => .fault r
      | .refused r => .refused r
    else .next s

/-- The longest busy period: 500 edges (44_sequencer_host.md R231, 70_reset_and_hazards.md R280; log entry 18). -/
def busyEdges : Nat := 500

/-- The state after one line, and the symbols it shows on the read port. `READ` and `READALL` are no edges: they look at
`rd_data` (R107, R215). -/
def runLine : HostLine → State → Host.Outcome State Fault Refusal × List Sym
  | .reset, s => (drive resetPorts s, [])
  | .nop, s => (drive (commandPorts 0) s, [])
  | .start call loc p, s => (drive (startPorts call loc p) s, [])
  | .clear, s => (drive (commandPorts 2) s, [])
  | .rsvd3, s => (drive (commandPorts 3) s, [])
  | .read a, s => (.next s, [s.rdData a])
  | .wait, s => (waitIdle busyEdges s, [])
  | .encode call loc p, s =>
    match drive (startPorts call loc p) s with
    | .next t => (waitIdle busyEdges t, [])
    | .fault r => (.fault r, [])
    | .refused r => (.refused r, [])
  | .readAll, s => (.next s, s.readAll)

end Sys2Proof.Machine
end

