-- ==== Sys2Proof/Safety.lean ====
section
/-! DEFINITION. What counts as a safe state, in the terms the statements use: the end of a run (44_sequencer_host.md R232), the
invariant of the sequencer (10_state.md R34, R35, R39; 20_memory.md R66; 42_interleaver.md R177, R178), and what it is for ports
to present an operation's operands (30_encoding.md R94 to R96). -/

namespace Sys2Proof.Machine

/-- The end of a run: DONE or ERR (R232). -/
def EndOfRun (s : State) : Prop := s.ph = .done ∨ s.ph = .err

/-- `ERRC` = 1 iff `PH` = ERR, else 0 (R39). -/
def ErrInv (s : State) : Prop :=
  s.errc = if s.ph = .err then .invalidArgument else .none

/-- When PACK reads the latched callsign, it is not empty (R23, 40_field_packer.md R124, R126). -/
def LatchInv (s : State) : Prop := s.ph = .pack → s.callLen ≠ 0

/-- One of the two parity bits of step `K - 1` is about to be placed: `J` = 2(K - 1) or 2(K - 1) + 1. -/
def PlacingCounts (s : State) : Prop :=
  s.k.toNat ≤ Config.steps ∧ (s.j.toNat + 2 = 2 * s.k.toNat ∨ s.j.toNat + 1 = 2 * s.k.toNat)

/-- The counters of a running encode: `J = 2*K` at SHIFT (R35); `CNT` has passed as many kept values as draws were made
(42_interleaver.md R177); at PLACE, `ADDR` is the address of the value just passed (R32). -/
def CountInv (s : State) : Prop :=
  match s.ph with
  | .shift => s.k.toNat < Config.steps ∧ s.j.toNat = 2 * s.k.toNat ∧ keptBelow s.cnt.toNat = s.j.toNat
  | .addr => PlacingCounts s ∧ keptBelow s.cnt.toNat = s.j.toNat
  | .place =>
    PlacingCounts s ∧ keptBelow s.cnt.toNat = s.j.toNat + 1 ∧ s.cnt ≠ 0 ∧
      s.addr = rev8Bits (s.cnt - 1) ∧ s.addr.toNat ≤ Config.addrMax
  | .idle | .pack | .seed | .done | .err => True

/-- Address `a` belongs to one of the counter values below `c`. -/
def DrawnBelow (c a : Nat) : Prop := ∃ x, x < c ∧ (rev8Bits (BitVec.ofNat 8 x)).toNat = a

/-- An element whose address has not been placed into still holds its sync bit, 0 or 1 (20_memory.md R66). -/
def SymInv (s : State) : Prop :=
  match s.ph with
  | .shift | .addr => ∀ a, a ≤ Config.addrMax → ¬ DrawnBelow s.cnt.toNat a → (s.sym.read a).toNat ≤ 1
  | .place => ∀ a, a ≤ Config.addrMax → ¬ DrawnBelow (s.cnt.toNat - 1) a → (s.sym.read a).toNat ≤ 1
  | .idle | .pack | .seed | .done | .err => True

/-- The invariant of the machine: what every state of every run meets. -/
structure Inv (s : State) : Prop where
  sym_wf : s.sym.wf = true
  errc : ErrInv s
  latch : LatchInv s
  counts : CountInv s
  unplaced : SymInv s

/-- How many bits of `x` are 1, as the size of the set of their positions (00_scope.md R11). -/
def setBits (x : Word) : Nat := (Finset.univ.filter fun i : Fin 32 => x.getLsbD i = true).card

/-- The exclusive-or of the bits of `x` at the listed positions. -/
def xorAt (x : Word) (positions : List Nat) : Bool := positions.foldl (fun acc i => xor acc (x.getLsbD i)) false

/-- The `N` that an encode of `call` packs (43_assembler.md R195). -/
def packedCall (call : List Byte) : PackedN := packNField (layoutChars call.length (firstSix call))

/-- The `M` that an encode of `loc` and `p` packs (43_assembler.md R195). -/
def packedLoc (loc : List Byte) (p : Int) : PackedM := packMField (firstFour loc) p

/-- The port values at the edge `e` edges after the coming one. -/
def State.portsAt (s : State) (e : Nat) : Ports := ((s.script.take e).getLast?).getD s.ports

/-- The ports present the operands of `encode(call, loc, p)`: lengths saturated at 7, the first characters, the power
(30_encoding.md R94 to R96). What stands on the other character ports is open. -/
structure Presents (q : Ports) (call loc : List Byte) (p : Int) : Prop where
  callLen : q.callLen = presentLen call.length
  callCh : ∀ i, i < min call.length 6 → charAt6 q.callCh i = call.getD i 0
  locLen : q.locLen = presentLen loc.length
  locCh : loc.length = 4 → ∀ i, i < 4 → charAt4 q.locCh i = loc.getD i 0
  power : q.power.toInt = p

end Sys2Proof.Machine
end

