-- ==== Sys2Proof/Certificates/Slice0/Obligations.lean ====
section
/-! DEFINITION. The statements for the provers. Rule numbers R<n> are those of spec/; log entry <n> is notes/assumptions/<n>.md. -/

section StatementsOfSlice0

open Sys2Proof Sys2Proof.Machine

/-! ### Encodings and the step -/

/-- R210: with `rst` = 1 an edge resets; else it performs the operation that the phase code decodes to; and in a wait phase
that is the operation that the command word decodes to. After the edge the host drives its next port values. -/
def Obligations.StepRunsDecodedOperation : Prop :=
  ∀ s : State,
    (s.ports.rst = true → step s = mapNext State.advance (exec .reset s)) ∧
    (s.ports.rst = false →
      ∃ i, decode .phase [s.ph.code.setWidth 8] = .ok i ∧ step s = mapNext State.advance (exec i s)) ∧
    (s.ports.rst = false → s.busy = false →
      ∃ i, decode .command [s.ports.cmd.setWidth 8] = .ok i ∧ step s = mapNext State.advance (exec i s)) ∧
    (s.script = [] → s.advance = s) ∧
    (∀ p rest, s.script = p :: rest → s.advance = { s with ports := p, script := rest })

/-- The words of R91, R93 and R108, written out. -/
def Obligations.WrittenWordsDecode : Prop :=
  decode .command [0b00] = .ok .nop ∧ decode .command [0b01] = .ok .start ∧
  decode .command [0b10] = .ok .clear ∧ decode .command [0b11] = .ok .rsvd3 ∧
  decode .phase [0b000] = .ok .idle ∧ decode .phase [0b001] = .ok .pack ∧
  decode .phase [0b010] = .ok .seedOp ∧ decode .phase [0b011] = .ok .shift ∧
  decode .phase [0b100] = .ok .addr ∧ decode .phase [0b101] = .ok .placeOp ∧
  decode .phase [0b110] = .ok .done ∧ decode .phase [0b111] = .ok .err ∧
  decode .rst [0b1] = .ok .reset ∧ decode .rst [0b0] = .error .rstLow

/-- Decode and encode agree: the words of every operation decode to it, every command word and every phase code is the
word of what it decodes to, and an operation without words is no command, no phase and not the reset. -/
def Obligations.DecodeOfEncode : Prop :=
  (∀ i f bs, Sys2Proof.encode i = some (f, bs) → decode f bs = .ok i) ∧
  (∀ w : BitVec 2, Sys2Proof.encode (commandInstr (decodeCommand w)) = some (.command, [w.setWidth 8])) ∧
  (∀ w : BitVec 3, Sys2Proof.encode (phaseInstr (decodePhase w)) = some (.phase, [w.setWidth 8])) ∧
  (∀ i, Sys2Proof.encode i = none →
    (∀ c, i ≠ commandInstr c) ∧ (∀ p, i ≠ phaseInstr p) ∧ i ≠ .reset)

/-- The operation read from a table word is the one the next edge performs when the word is placed (log entries 8, 9: how a
word is placed is the model's choice). -/
def Obligations.PlacedWordRuns : Prop :=
  ∀ (s : State) (nbits w : Nat) (i : Instr), decodeTableWord nbits w = some i →
    step (s.withFetchWord nbits w) = mapNext State.advance (exec i (s.withFetchWord nbits w))

/-! ### The field packer -/

/-- R121: `value` of every code, class by class. -/
def Obligations.ValueOfEveryCode : Prop :=
  ∀ (c : Byte) (s : State), ∃ v,
    exec (.value c) s = .next { s with ret := .value v } ∧
    (48 ≤ c.toNat ∧ c.toNat ≤ 57 → v = c.toNat - 48) ∧
    (65 ≤ c.toNat ∧ c.toNat ≤ 90 → v = c.toNat - 65 + 10) ∧
    (97 ≤ c.toNat ∧ c.toNat ≤ 122 → v = c.toNat - 97 + 10) ∧
    (c.toNat = 32 → v = 36) ∧
    (¬ (48 ≤ c.toNat ∧ c.toNat ≤ 57) → ¬ (65 ≤ c.toNat ∧ c.toNat ≤ 90) → ¬ (97 ≤ c.toNat ∧ c.toNat ≤ 122) →
      c.toNat ≠ 32 → v = 0) ∧
    v ≤ 36

/-- R124: `check` fails exactly when the callsign is empty or the locator length is not 4. -/
def Obligations.CheckOfLengths : Prop :=
  ∀ (callLen locLen : Nat) (s : State),
    (callLen = 0 ∨ locLen ≠ 4 → exec (.check callLen locLen) s = .next { s with ret := .invalidArgument }) ∧
    (callLen ≠ 0 → locLen = 4 → exec (.check callLen locLen) s = .next { s with ret := .ok })

/-- R126: the three branches of `layout`, character by character; lengths 6 and above behave alike. -/
def Obligations.LayoutBranches : Prop :=
  (∀ (call : List Byte) (s : State), call ≠ [] → ∃ b,
    exec (.layout call) s = .next { s with ret := .chars b } ∧
    (2 ≤ call.length ∧ isDigit (call.getD 1 0) = true →
      ∀ i, i < 6 → charAt6 b i = if 1 ≤ i ∧ i ≤ min call.length 5 then call.getD (i - 1) 0 else 32) ∧
    (¬ (2 ≤ call.length ∧ isDigit (call.getD 1 0) = true) → 3 ≤ call.length ∧ isDigit (call.getD 2 0) = true →
      ∀ i, i < 6 → charAt6 b i = if i < min call.length 6 then call.getD i 0 else 32) ∧
    (¬ (2 ≤ call.length ∧ isDigit (call.getD 1 0) = true) →
      ¬ (3 ≤ call.length ∧ isDigit (call.getD 2 0) = true) → ∀ i, i < 6 → charAt6 b i = 32)) ∧
  (∀ (len : Nat) (c : Chars6), 6 ≤ len → layoutChars len c = layoutChars 6 c)

/-- R128: `N` is the formula over the integers, modulo 2^28. -/
def Obligations.PackNFormula : Prop :=
  ∀ (b : Chars6) (s : State), ∃ n : PackedN,
    exec (.packN b) s = .next { s with ret := .packedN n } ∧
    (n.toNat : Int) =
      ((((((charValue b.c0 : Int) * 36 + charValue b.c1) * 10 + charValue b.c2) * 27 + charValue b.c3 - 10) * 27
        + charValue b.c4 - 10) * 27 + charValue b.c5 - 10) % 2 ^ 28

/-- R129: the range of the integer behind `N`, both ends reached. -/
def Obligations.PackNRange : Prop :=
  (∀ b : Chars6, -7570 ≤ packNInt b ∧ packNInt b ≤ 262905830) ∧
  packNInt ⟨45, 63, 48, 48, 48, 48⟩ = -7570 ∧ packNInt ⟨32, 32, 32, 32, 32, 32⟩ = 262905830

/-- R130: `M` is the formula over the integers on the raw codes, modulo 2^22. -/
def Obligations.PackMFormula : Prop :=
  ∀ (loc : Chars4) (p : Int) (s : State), ∃ m : PackedM,
    exec (.packM loc p) s = .next { s with ret := .packedM m } ∧
    (m.toNat : Int) =
      (((179 - 10 * ((loc.c0.toNat : Int) - 65) - ((loc.c2.toNat : Int) - 48)) * 180
        + 10 * ((loc.c1.toNat : Int) - 65) + ((loc.c3.toNat : Int) - 48)) * 128 + p + 64) % 2 ^ 22

/-- R131: the range of the integers behind `M`, for any codes and any 8-bit power, and for well-formed input, where the
reduction does nothing. -/
def Obligations.PackMRange : Prop :=
  ∀ (loc : Chars4) (p : Int), -128 ≤ p → p ≤ 127 →
    (-347738 ≤ packM1 loc ∧ packM1 loc ≤ 159967) ∧
    (-44510528 ≤ packMInt loc p ∧ packMInt loc p ≤ 20475967) ∧
    (65 ≤ loc.c0.toNat → loc.c0.toNat ≤ 82 → 65 ≤ loc.c1.toNat → loc.c1.toNat ≤ 82 →
      isDigit loc.c2 = true → isDigit loc.c3 = true → 0 ≤ p → p ≤ 60 →
      64 ≤ packMInt loc p ∧ packMInt loc p ≤ 4147196 ∧ ((packMField loc p).toNat : Int) = packMInt loc p)

/-- R218: PACK lays out the latched callsign and packs the new buffer, the locator and the signed power. -/
def Obligations.PackOperation : Prop :=
  ∀ s : State, ∃ (b : Chars6) (n : PackedN) (m : PackedM),
    exec .pack s = .next { s with buf := b, n := n, m := m, ph := .seed } ∧
    b = layoutChars s.callLen.toNat s.call ∧
    (n.toNat : Int) =
      ((((((charValue b.c0 : Int) * 36 + charValue b.c1) * 10 + charValue b.c2) * 27 + charValue b.c3 - 10) * 27
        + charValue b.c4 - 10) * 27 + charValue b.c5 - 10) % 2 ^ 28 ∧
    (m.toNat : Int) =
      (((179 - 10 * ((s.loc.c0.toNat : Int) - 65) - ((s.loc.c2.toNat : Int) - 48)) * 180
        + 10 * ((s.loc.c1.toNat : Int) - 65) + ((s.loc.c3.toNat : Int) - 48)) * 128 + s.pwr.toInt + 64) % 2 ^ 22

/-! ### The convolutional encoder -/

/-- R152: `parity` is the number of 1 bits modulo 2, the exclusive-or of the 32 bits, and linear. -/
def Obligations.ParityOfWord : Prop :=
  ∀ (x : Word) (s : State), ∃ b,
    exec (.parity x) s = .next { s with ret := .bit b } ∧
    b = decide (setBits x % 2 = 1) ∧ b = xorAt x (List.range 32) ∧
    (∀ y, parityBit (x ^^^ y) = xor b (parityBit y)) ∧
    parityBit 0 = false ∧ parityBit 0xFFFFFFFF = false

/-- R153: the input-bit schedule. -/
def Obligations.BitSchedule : Prop :=
  ∀ (n : PackedN) (m : PackedM) (k : Nat) (s : State), k ≤ 80 → ∃ b,
    exec (.bitsched n m k) s = .next { s with ret := .bit b } ∧
    (k ≤ 27 → b = n.getLsbD (27 - k)) ∧
    (28 ≤ k → k ≤ 49 → b = m.getLsbD (21 - (k - 28))) ∧
    (50 ≤ k → b = false)

/-- The model's choice (log entry 10): outside the schedule of R153 the bit is free, and everything else of `bitsched` and
of SHIFT happens with it. -/
def Obligations.OutsideScheduleRuns : Prop :=
  (∀ (n : PackedN) (m : PackedM) (k : Nat) (s : State), 80 < k →
    ∃ b, exec (.bitsched n m k) s = .next { s with ret := .bit b, freeCount := s.freeCount + 1 }) ∧
  (∀ s : State, 80 < s.k.toNat → ∃ (b : Bool) (r : Word) (k' : BitVec 7) (f : Nat),
    exec .shift s = .next { s with
      reg := r, p0 := decide (setBits (r &&& 0xF2D05351) % 2 = 1), p1 := decide (setBits (r &&& 0xE4613C47) % 2 = 1),
      k := k', ph := .addr, freeCount := f } ∧
    r.toNat = (2 * s.reg.toNat + b.toNat) % 2 ^ 32 ∧ (s.k.toNat < 127 → k' = s.k + 1))

/-- R154: one step of the encoder: the register shifted left with the bit entering at bit 0, and the two parities of the
register after the shift. -/
def Obligations.EncoderStep : Prop :=
  ∀ (b : Bool) (s : State), ∃ r : Word,
    exec (.cestep b) s = .next { s with
      reg := r, p0 := decide (setBits (r &&& 0xF2D05351) % 2 = 1), p1 := decide (setBits (r &&& 0xE4613C47) % 2 = 1) } ∧
    r.toNat = (2 * s.reg.toNat + b.toNat) % 2 ^ 32

/-- R157: which bits of the register each parity taps. -/
def Obligations.GeneratorTaps : Prop :=
  ∀ r : Word,
    flagP0 r = xorAt r [0, 4, 6, 8, 9, 12, 14, 20, 22, 23, 25, 28, 29, 30, 31] ∧
    flagP1 r = xorAt r [0, 1, 2, 6, 10, 11, 12, 13, 16, 21, 22, 26, 29, 30, 31]

/-- R150, R155, R156, R157: after step `k` bit `i` of the register is the input bit of step `k - i`, and step `k` emits the
stream's bits `2k` and `2k + 1`, 162 in all. -/
def Obligations.StreamClosedForm : Prop :=
  ∀ (n : PackedN) (m : PackedM),
    (conv n m).length = 162 ∧
    ∀ k, k ≤ 80 →
      (∀ i, i < 32 → (convReg n m k).getLsbD i = if i ≤ k then (schedBit n m (k - i)).getD false else false) ∧
      (conv n m)[2 * k]? = some (flagP0 (convReg n m k)) ∧
      (conv n m)[2 * k + 1]? = some (flagP1 (convReg n m k))

/-- R158: the code is linear. -/
def Obligations.StreamIsLinear : Prop :=
  (∀ (n n' : PackedN) (m m' : PackedM),
    conv (n ^^^ n') (m ^^^ m') = List.zipWith xor (conv n m) (conv n' m')) ∧
  conv 0 0 = List.replicate 162 false

/-- R158: the tail flushes the register; the first and the last two bits of the stream are `N[27]` and `M[0]`. -/
def Obligations.StreamEnds : Prop :=
  ∀ (n : PackedN) (m : PackedM),
    convReg n m 80 = (if m.getLsbD 0 then 0x80000000 else 0) ∧
    (conv n m)[0]? = some (n.getLsbD 27) ∧ (conv n m)[1]? = some (n.getLsbD 27) ∧
    (conv n m)[160]? = some (m.getLsbD 0) ∧ (conv n m)[161]? = some (m.getLsbD 0)

/-- R151, R172: the two initialisations. -/
def Obligations.InitialisesRegisterAndCounter : Prop :=
  ∀ s : State, exec .ceinit s = .next { s with reg := 0 } ∧ exec .ilinit s = .next { s with cnt := 0 }

/-- R220: SHIFT, for every step of the schedule. -/
def Obligations.ShiftOperation : Prop :=
  ∀ s : State, s.k.toNat ≤ 80 → ∃ (b : Bool) (r : Word),
    exec .shift s = .next { s with
      reg := r, p0 := decide (setBits (r &&& 0xF2D05351) % 2 = 1), p1 := decide (setBits (r &&& 0xE4613C47) % 2 = 1),
      k := s.k + 1, ph := .addr } ∧
    r.toNat = (2 * s.reg.toNat + b.toNat) % 2 ^ 32 ∧
    (s.k.toNat ≤ 27 → b = s.n.getLsbD (27 - s.k.toNat)) ∧
    (28 ≤ s.k.toNat → s.k.toNat ≤ 49 → b = s.m.getLsbD (49 - s.k.toNat)) ∧
    (50 ≤ s.k.toNat → b = false)

/-! ### The interleaver -/

/-- R171: `rev8` reverses the eight bits, and is its own inverse. -/
def Obligations.ByteReversal : Prop :=
  ∀ (x : Byte) (s : State), ∃ r : Byte,
    exec (.rev8 x) s = .next { s with ret := .byte r } ∧
    (∀ i, i < 8 → r.getLsbD i = x.getLsbD (7 - i)) ∧
    r.toNat = 128 * (x.getLsbD 0).toNat + 64 * (x.getLsbD 1).toNat + 32 * (x.getLsbD 2).toNat
      + 16 * (x.getLsbD 3).toNat + 8 * (x.getLsbD 4).toNat + 4 * (x.getLsbD 5).toNat + 2 * (x.getLsbD 6).toNat
      + (x.getLsbD 7).toNat ∧
    rev8Bits r = x

/-- R174, R175: one draw examines one or two counter values, moves the counter past them and returns an address 0..161.
That the counter 255 is where no draw is left is the model's reading (log entry 12). -/
def Obligations.OneDraw : Prop :=
  ∀ s : State, s.cnt ≠ 255 → ∃ a c : Byte,
    exec .ilnext s = .next { s with ret := .byte a, cnt := c } ∧ a.toNat ≤ 161 ∧
    (((rev8Bits s.cnt).toNat ≤ 161 ∧ a = rev8Bits s.cnt ∧ c = s.cnt + 1) ∨
      (161 < (rev8Bits s.cnt).toNat ∧ a = rev8Bits (s.cnt + 1) ∧ c = s.cnt + 2))

/-- R179: a 163rd draw is refused; the counter is 255 exactly when 162 values have been kept (R178; log entry 12). -/
def Obligations.DrawAfterTheLastRefused : Prop :=
  (∀ s : State, s.cnt = 255 → exec .ilnext s = .refused .drawsExhausted) ∧
  (∀ c, c < 256 → (keptBelow c = 162 ↔ c = 255))

/-- R177: the 162 addresses are pairwise distinct and exactly 0..161; draw `j` is the reversal of the `j`-th kept counter
value, and address `a` is drawn at the number of kept values below its reversal. -/
def Obligations.AddressesAreAPermutation : Prop :=
  addrSeq.length = 162 ∧ (addrSeq.map BitVec.toNat).Nodup ∧
  (∀ a, a ∈ addrSeq.map BitVec.toNat ↔ a ≤ 161) ∧
  (∀ j, j < 162 → ∃ c, c ≤ 254 ∧ keeps (BitVec.ofNat 8 c) = true ∧ keptBelow c = j ∧
    addrSeq[j]? = some (rev8Bits (BitVec.ofNat 8 c))) ∧
  (∀ a, a ≤ 161 → addrSeq[drawOf a]? = some (BitVec.ofNat 8 a))

/-- R221: ADDR, one iteration of a draw; `CNT` counts modulo 256. -/
def Obligations.AddrOperation : Prop :=
  ∀ s : State,
    ((rev8Bits s.cnt).toNat ≤ 161 →
      exec .addr s = .next { s with cnt := s.cnt + 1, addr := rev8Bits s.cnt, ph := .place }) ∧
    (161 < (rev8Bits s.cnt).toNat → exec .addr s = .next { s with cnt := s.cnt + 1, ph := .addr })

/-! ### The assembler -/

/-- R192, R67: every element becomes its sync bit; nothing is listed above 161. -/
def Obligations.SeedCopiesSync : Prop :=
  ∀ s : State, ∃ mem : Memory,
    exec .seed s = .next { s with sym := mem } ∧ mem.wf = true ∧
    ∀ a, (mem.read a).toNat = if a ≤ 161 then (Config.sync.getLsbD a).toNat else 0

/-- R193, R65: `place` adds twice the parity bit to the element of its address and touches no other. -/
def Obligations.PlaceAddsParity : Prop :=
  ∀ (s : State) (a : Byte) (p : Bool), s.sym.wf = true → a.toNat ≤ 161 →
    (s.sym.read a.toNat).toNat + 2 * p.toNat ≤ 3 → ∃ mem : Memory,
      exec (.place a p) s = .next { s with sym := mem } ∧ mem.wf = true ∧
      (mem.read a.toNat).toNat = (s.sym.read a.toNat).toNat + 2 * p.toNat ∧
      ∀ b, b ≠ a.toNat → mem.read b = s.sym.read b

/-- The model's choices (log entries 10 and 11): in the stand-alone `place`, a sum above 3 leaves a free element and touches
no other; an address above 161 is a fault. -/
def Obligations.PlaceOutsideTheRules : Prop :=
  ∀ (s : State) (a : Byte) (p : Bool),
    (a.toNat ≤ 161 → 3 < (s.sym.read a.toNat).toNat + 2 * p.toNat → ∃ mem : Memory,
      exec (.place a p) s = .next { s with sym := mem, freeCount := s.freeCount + 1 } ∧
      ∀ b, b ≠ a.toNat → mem.read b = s.sym.read b) ∧
    (161 < a.toNat → exec (.place a p) s = .fault .noSuchAddress)

/-- R219: SEED, the start of every encode. -/
def Obligations.SeedOperation : Prop :=
  ∀ s : State, ∃ mem : Memory,
    exec .seedOp s = .next { s with sym := mem, reg := 0, cnt := 0, k := 0, j := 0, ph := .shift } ∧ mem.wf = true ∧
    ∀ a, (mem.read a).toNat = if a ≤ 161 then (Config.sync.getLsbD a).toNat else 0

/-- R222: PLACE, wherever an encode reaches it. -/
def Obligations.PlaceOperation : Prop :=
  ∀ s : State, s.sym.wf = true → s.addr.toNat ≤ 161 → s.j.toNat ≤ 161 →
    (s.sym.read s.addr.toNat).toNat + 2 * (if s.j.toNat % 2 = 0 then s.p0 else s.p1).toNat ≤ 3 → ∃ mem : Memory,
      exec .placeOp s = .next { s with
        sym := mem
        j := s.j + 1
        ph := if s.j.toNat % 2 = 0 then .addr else if s.k.toNat = 81 then .done else .shift } ∧
      mem.wf = true ∧
      (mem.read s.addr.toNat).toNat =
        (s.sym.read s.addr.toNat).toNat + 2 * (if s.j.toNat % 2 = 0 then s.p0 else s.p1).toNat ∧
      ∀ b, b ≠ s.addr.toNat → mem.read b = s.sym.read b

/-- PLACE completes in every state (R210), touching only the buffer, `J`, `PH` and the count of free values; with an address
0..161 it touches only that element of the buffer; with an address above 161 no rule gives the buffer, and nothing is said of
its elements but that there are none above 161 (the model's choices, log entries 10 and 11). -/
def Obligations.PlaceCompletesInEveryState : Prop :=
  ∀ s : State, ∃ (mem : Memory) (j' : BitVec 8) (f : Nat),
    exec .placeOp s = .next { s with
      sym := mem
      j := j'
      ph := if s.j.toNat % 2 = 0 then .addr else if s.k.toNat = 81 then .done else .shift
      freeCount := f } ∧
    (s.j.toNat < 255 → j' = s.j + 1) ∧
    (s.addr.toNat ≤ 161 → ∀ b, b ≠ s.addr.toNat → mem.read b = s.sym.read b) ∧
    (161 < s.addr.toNat → mem.wf = true)

/-- R195, R124: `encode` of an empty callsign or a locator of another length than 4. -/
def Obligations.EncodeRejects : Prop :=
  ∀ (call loc : List Byte) (p : Int) (s : State), call = [] ∨ loc.length ≠ 4 →
    exec (.encode call loc p) s = .next { s with ret := .invalidArgument }

/-- R196: every symbol of an encode is its sync bit plus twice the parity bit of the draw that returns its address. -/
def Obligations.EncodeClosedForm : Prop :=
  ∀ (call loc : List Byte) (p : Int) (s : State), call ≠ [] → loc.length = 4 → ∃ syms : List Sym,
    exec (.encode call loc p) s = .next { s with ret := .message syms } ∧ syms.length = 162 ∧
    ∀ a, a ≤ 161 → ∃ (v : Sym) (d : Bool),
      syms[a]? = some v ∧
      addrSeq[drawOf a]? = some (BitVec.ofNat 8 a) ∧
      (conv (packedCall call) (packedLoc loc p))[drawOf a]? = some d ∧
      v.toNat = (Config.sync.getLsbD a).toNat + 2 * d.toNat

/-! ### The host interface -/

/-- R211, R103: NOP and the reserved command change nothing, in every phase. -/
def Obligations.NopChangesNothing : Prop :=
  ∀ s : State, exec .nop s = .next s ∧ exec .rsvd3 s = .next s

/-- R212: START in a wait phase latches the operands on the ports and begins an encode, or raises InvalidArgument and
changes only `PH` and `ERRC`. -/
def Obligations.StartOperation : Prop :=
  ∀ s : State, s.busy = false →
    (s.ports.callLen.toNat ≠ 0 → s.ports.locLen.toNat = 4 →
      exec .start s = .next { s with
        callLen := s.ports.callLen, call := s.ports.callCh, loc := s.ports.locCh, pwr := s.ports.power,
        errc := .none, ph := .pack }) ∧
    (s.ports.callLen.toNat = 0 ∨ s.ports.locLen.toNat ≠ 4 →
      exec .start s = .next { s with ph := .err, errc := .invalidArgument })

/-- R243: what a failing START shows from that edge on, whatever the address. -/
def Obligations.FailingStartOutputs : Prop :=
  ∀ s : State, s.busy = false → s.ports.callLen.toNat = 0 ∨ s.ports.locLen.toNat ≠ 4 → ∃ t,
    exec .start s = .next t ∧ t = { s with ph := .err, errc := .invalidArgument } ∧
    t.outputs = { busy := false, done := false, err := true, errCode := 1, rdData := 0 } ∧
    ∀ a, t.rdData a = 0

/-- R213: CLEAR in a wait phase, after which nothing can be read; while busy it is ignored. -/
def Obligations.ClearOperation : Prop :=
  ∀ s : State,
    (s.busy = false → ∃ t,
      exec .clear s = .next t ∧ t = { s with ph := .idle, errc := .none } ∧
      t.outputs = { busy := false, done := false, err := false, errCode := 0, rdData := 0 } ∧ ∀ a, t.rdData a = 0) ∧
    (s.busy = true → exec .clear s = .next s)

/-- R214: while busy the ports other than `rst` are not looked at: two edges that differ only in them do the same; and
START and CLEAR have no effect. -/
def Obligations.BusyIgnoresPorts : Prop :=
  ∀ (s : State) (q : Ports), s.busy = true →
    exec .start s = .next s ∧ exec .clear s = .next s ∧
    (s.ports.rst = false → q.rst = false →
      mapNext (fun t => { t with ports := Ports.quiet }) (step { s with ports := q }) =
        mapNext (fun t => { t with ports := Ports.quiet }) (step s))

/-- R223, R210: a wait phase performs the host command of the edge. -/
def Obligations.WaitPhaseOperations : Prop :=
  ∀ (s : State) (i : Instr), i = .idle ∨ i = .done ∨ i = .err → s.busy = false →
    (s.ports.cmd = 0 ∨ s.ports.cmd = 3 → exec i s = .next s) ∧
    (s.ports.cmd = 1 → s.ports.callLen.toNat ≠ 0 → s.ports.locLen.toNat = 4 →
      exec i s = .next { s with
        callLen := s.ports.callLen, call := s.ports.callCh, loc := s.ports.locCh, pwr := s.ports.power,
        errc := .none, ph := .pack }) ∧
    (s.ports.cmd = 1 → s.ports.callLen.toNat = 0 ∨ s.ports.locLen.toNat ≠ 4 →
      exec i s = .next { s with ph := .err, errc := .invalidArgument }) ∧
    (s.ports.cmd = 2 → exec i s = .next { s with ph := .idle, errc := .none })

/-- R22: the output ports, and exactly one of idle, `busy`, `done`, `err` holds. -/
def Obligations.OutputPorts : Prop :=
  ∀ s : State,
    (s.busy = true ↔ s.ph.code.toNat ∈ [1, 2, 3, 4, 5]) ∧
    (s.done = true ↔ s.ph.code.toNat = 6) ∧ (s.err = true ↔ s.ph.code.toNat = 7) ∧
    (∀ a : Byte, s.rdData a = if s.ph.code.toNat = 6 ∧ a.toNat ≤ 161 then s.sym.read a.toNat else 0) ∧
    s.outputs = { busy := s.busy, done := s.done, err := s.err, errCode := errorCode s.errc,
                  rdData := s.rdData s.ports.rdAddr } ∧
    s.idle.toNat + s.busy.toNat + s.done.toNat + s.err.toNat = 1

/-- R270: RESET, whatever the state and the other inputs: IDLE, no error, all outputs low; on an edge with `rst` = 1 it is
what happens. -/
def Obligations.ResetOperation : Prop :=
  ∀ s : State, ∃ t,
    exec .reset s = .next t ∧ t.ph = .idle ∧ t.errc = .none ∧ t.sym.wf = true ∧
    t.outputs = { busy := false, done := false, err := false, errCode := 0, rdData := 0 } ∧
    t.ports = s.ports ∧ t.script = s.script ∧ t.ret = s.ret ∧
    (s.ports.rst = true → step s = .next t.advance)

/-- R43: the state after reset, on what the spec gives. -/
def Obligations.StateAfterReset : Prop :=
  State.reset.ph = .idle ∧ State.reset.errc = .none ∧
  ∀ q : Ports, ({ State.reset with ports := q } : State).outputs =
    { busy := false, done := false, err := false, errCode := 0, rdData := 0 }

/-! ### Whole-machine rules -/

/-- R224: the complete phase-transition relation. -/
def Obligations.PhaseTransitions : Prop :=
  ∀ s t : State, step s = .next t →
    (s.ports.rst = true → t.ph = .idle) ∧
    (s.ports.rst = false →
      (s.busy = false → s.ports.cmd = 0 ∨ s.ports.cmd = 3 → t.ph = s.ph) ∧
      (s.busy = false → s.ports.cmd = 1 → s.ports.callLen.toNat ≠ 0 → s.ports.locLen.toNat = 4 → t.ph = .pack) ∧
      (s.busy = false → s.ports.cmd = 1 → s.ports.callLen.toNat = 0 ∨ s.ports.locLen.toNat ≠ 4 → t.ph = .err) ∧
      (s.busy = false → s.ports.cmd = 2 → t.ph = .idle) ∧
      (s.ph = .pack → t.ph = .seed) ∧ (s.ph = .seed → t.ph = .shift) ∧ (s.ph = .shift → t.ph = .addr) ∧
      (s.ph = .addr → (rev8Bits s.cnt).toNat ≤ 161 → t.ph = .place) ∧
      (s.ph = .addr → 161 < (rev8Bits s.cnt).toNat → t.ph = .addr) ∧
      (s.ph = .place → s.j.toNat % 2 = 0 → t.ph = .addr) ∧
      (s.ph = .place → s.j.toNat % 2 = 1 → s.k.toNat < 81 → t.ph = .shift) ∧
      (s.ph = .place → s.j.toNat % 2 = 1 → s.k.toNat = 81 → t.ph = .done))

/-- R242: no operation of the block produces the code 2 or 3. -/
def Obligations.NoOtherErrorCode : Prop :=
  ∀ (i : Instr) (s t : State), exec i s = .next t →
    t.errc = s.errc ∨ t.errc = .none ∨ t.errc = .invalidArgument

/-- R225, R23 to R35: which edge writes which register: whatever an edge without reset changes, it is at the phase that
writes it. -/
def Obligations.RegisterWriters : Prop :=
  ∀ s t : State, s.ports.rst = false → step s = .next t →
    ((t.callLen, t.call, t.loc, t.pwr) ≠ (s.callLen, s.call, s.loc, s.pwr) →
      s.busy = false ∧ s.ports.cmd = 1 ∧ s.ports.callLen.toNat ≠ 0 ∧ s.ports.locLen.toNat = 4) ∧
    ((t.buf, t.n, t.m) ≠ (s.buf, s.n, s.m) → s.ph = .pack) ∧
    (t.reg ≠ s.reg → s.ph = .seed ∨ s.ph = .shift) ∧
    ((t.p0, t.p1) ≠ (s.p0, s.p1) → s.ph = .shift) ∧
    (t.cnt ≠ s.cnt → s.ph = .seed ∨ s.ph = .addr) ∧
    (t.addr ≠ s.addr → s.ph = .addr ∧ (rev8Bits s.cnt).toNat ≤ 161) ∧
    (t.k ≠ s.k → s.ph = .seed ∨ s.ph = .shift) ∧
    (t.j ≠ s.j → s.ph = .seed ∨ s.ph = .place) ∧
    (t.sym ≠ s.sym → s.ph = .seed ∨ s.ph = .place) ∧
    (t.errc ≠ s.errc → s.busy = false ∧ (s.ports.cmd = 1 ∨ s.ports.cmd = 2)) ∧
    t.ret = s.ret

/-- R232, R211: the end of a run is stable: an edge with NOP or the reserved command keeps the whole block. -/
def Obligations.EndOfRunIsStable : Prop :=
  ∀ s : State, EndOfRun s → s.ports.rst = false → s.ports.cmd = 0 ∨ s.ports.cmd = 3 → ∃ t,
    step s = .next t ∧ EndOfRun t ∧ t = { s with ports := t.ports, script := t.script } ∧
    ∀ a, t.rdData a = s.rdData a

/-- Every operation keeps the canonical form of the symbol memory. -/
def Obligations.OperationsKeepMemoryForm : Prop :=
  ∀ (i : Instr) (s t : State), s.sym.wf = true → exec i s = .next t → t.sym.wf = true

/-- The invariant of the machine holds after reset. -/
def Obligations.InvariantAtReset : Prop := Inv State.reset

/-- Every edge keeps the invariant: the canonical form of the memory, R39 (`ERRC` = 1 iff ERR), R34 and R35 (the counts,
`J = 2*K` at SHIFT), R32 (the address latch), R66 (what is not placed yet is 0 or 1), R177 and R178 (the draws). -/
def Obligations.StepKeepsInvariant : Prop :=
  ∀ s t : State, Inv s → step s = .next t → Inv t

/-- R210: the step is total. Every state and every input has exactly one next state, also where no run gets. -/
def Obligations.StepIsTotal : Prop :=
  ∀ s : State, ∃ t : State, step s = .next t ∧ ∀ u : State, step s = .next u → u = t

/-- R210: under the invariant every edge has a next state, and without a reset it takes no free value. -/
def Obligations.StepCompletesUnderInvariant : Prop :=
  ∀ s : State, Inv s → ∃ t, step s = .next t ∧ (s.ports.rst = false → t.freeCount = s.freeCount)

/-- R231: a START that passes the check reaches DONE at the 500th edge after it, whatever the host does on the way but
reset; `SYM` is then `encode` of the operands, and stays so as long as the host sends NOP or the reserved command. -/
def Obligations.EncodeRunEndsInDone : Prop :=
  ∀ (s : State) (call loc : List Byte) (p : Int),
    s.busy = false → s.ports.rst = false → s.ports.cmd = 1 → Presents s.ports call loc p →
    (call ≠ [] → loc.length = 4 → ∀ d,
      (∀ e, 1 ≤ e → e ≤ 500 + d → (s.portsAt e).rst = false) →
      (∀ e, 501 ≤ e → e ≤ 500 + d → (s.portsAt e).cmd = 0 ∨ (s.portsAt e).cmd = 3) →
      (∀ e, 1 ≤ e → e ≤ 500 → ∃ u : State, Host.Core.run Sys2Proof.core e s = .next u ∧ u.busy = true) ∧
      ∃ (t : State) (syms : List Sym),
        Host.Core.run Sys2Proof.core (501 + d) s = .next t ∧
        (∀ other, encodeWith Config.sync other call loc p = some syms) ∧
        t.ph = .done ∧ t.errc = .none ∧
        (∀ a, a ≤ 161 → syms[a]? = some (t.rdData (BitVec.ofNat 8 a)) ∧ syms[a]? = some (t.sym.read a)) ∧
        t.k = 81 ∧ t.j = 162 ∧ t.cnt = 255 ∧ t.addr = 127 ∧
        t.reg = (if (packedLoc loc p).getLsbD 0 then 0x80000000 else 0)) ∧
    (call = [] ∨ loc.length ≠ 4 → ∃ t, step s = .next t ∧ t.ph = .err ∧ t.errc = .invalidArgument)

/-- R107: the host's line ENCODE from a wait phase, then READALL, gives what `encode` gives, for every power the port
holds. -/
def Obligations.EncodeThenReadAll : Prop :=
  ∀ (s : State) (call loc : List Byte) (p : Int), s.busy = false → call ≠ [] → loc.length = 4 →
    -128 ≤ p → p ≤ 127 → ∃ (t : State) (syms : List Sym),
      runLine (.encode call loc p) s = (.next t, []) ∧ t.ph = .done ∧
      (∀ other, encodeWith Config.sync other call loc p = some syms) ∧
      runLine .readAll t = (.next t, syms)

end StatementsOfSlice0
end

