-- ==== Sys2Proof/Laws/Memory.lean ====
section
/-! SUPPORT. The laws of the symbol memory: a read after a write, and that every memory operation keeps the canonical form. -/

namespace Sys2Proof.Machine

@[simp] theorem Memory.read_nil (a : Nat) : Memory.read [] a = 0 := rfl

theorem Memory.read_cons (a : Nat) (v : Sym) (rest : Memory) (b : Nat) :
    Memory.read ((a, v) :: rest) b = if b = a then v else rest.read b := rfl

theorem Memory.wfFrom_cons {lo a : Nat} {v : Sym} {rest : Memory} :
    Memory.wfFrom lo ((a, v) :: rest) = true ↔
      lo ≤ a ∧ a ≤ Config.addrMax ∧ v ≠ 0 ∧ Memory.wfFrom (a + 1) rest = true := by
  simp [Memory.wfFrom, and_assoc]

theorem Memory.wfFrom_mono {lo hi : Nat} {m : Memory} (h : lo ≤ hi) (hm : m.wfFrom hi = true) :
    m.wfFrom lo = true := by
  cases m with
  | nil => rfl
  | cons e rest =>
    obtain ⟨a, v⟩ := e
    rw [Memory.wfFrom_cons] at hm ⊢
    exact ⟨h.trans hm.1, hm.2⟩

/-- Below the first listed address everything reads 0. -/
theorem Memory.read_eq_zero_of_lt {lo b : Nat} {m : Memory} (hm : m.wfFrom lo = true) (h : b < lo) :
    m.read b = 0 := by
  induction m generalizing lo with
  | nil => rfl
  | cons e rest ih =>
    obtain ⟨a, v⟩ := e
    obtain ⟨h1, -, -, h4⟩ := Memory.wfFrom_cons.1 hm
    rw [Memory.read_cons, if_neg (by omega)]
    exact ih h4 (by omega)

/-- No element above 161 exists. -/
theorem Memory.read_eq_zero_of_addrMax_lt {lo b : Nat} {m : Memory} (hm : m.wfFrom lo = true)
    (h : Config.addrMax < b) : m.read b = 0 := by
  induction m generalizing lo with
  | nil => rfl
  | cons e rest ih =>
    obtain ⟨a, v⟩ := e
    obtain ⟨-, h2, -, h4⟩ := Memory.wfFrom_cons.1 hm
    rw [Memory.read_cons, if_neg (by omega)]
    exact ih h4

theorem Memory.read_mkCons {a : Nat} {v : Sym} {rest : Memory} (h : rest.wfFrom (a + 1) = true) (b : Nat) :
    (Memory.cons a v rest).read b = if b = a then v else rest.read b := by
  unfold Memory.cons
  split
  · split
    · subst b; rw [Memory.read_eq_zero_of_lt h (Nat.lt_succ_self a)]; exact (‹v = 0›).symm
    · rfl
  · rfl

theorem Memory.wfFrom_mkCons {lo a : Nat} {v : Sym} {rest : Memory} (h1 : lo ≤ a) (h2 : a ≤ Config.addrMax)
    (h : rest.wfFrom (a + 1) = true) : (Memory.cons a v rest).wfFrom lo = true := by
  unfold Memory.cons
  split
  · exact Memory.wfFrom_mono (by omega) h
  · exact Memory.wfFrom_cons.2 ⟨h1, h2, ‹_›, h⟩

theorem Memory.wfFrom_write {lo a : Nat} {v : Sym} {m : Memory} (hm : m.wfFrom lo = true) (h1 : lo ≤ a)
    (h2 : a ≤ Config.addrMax) : (m.write a v).wfFrom lo = true := by
  induction m generalizing lo with
  | nil => exact Memory.wfFrom_mkCons h1 h2 rfl
  | cons e rest ih =>
    obtain ⟨b, w⟩ := e
    obtain ⟨k1, k2, k3, k4⟩ := Memory.wfFrom_cons.1 hm
    unfold Memory.write
    split
    · exact Memory.wfFrom_mkCons h1 h2 (Memory.wfFrom_cons.2 ⟨by omega, k2, k3, k4⟩)
    · split
      · subst a; exact Memory.wfFrom_mkCons h1 h2 k4
      · exact Memory.wfFrom_cons.2 ⟨k1, k2, k3, ih k4 (by omega)⟩

/-- A read after a write: the value written at its address, every other address as before. -/
theorem Memory.read_writeFrom {lo a : Nat} {v : Sym} {m : Memory} (hm : m.wfFrom lo = true) (h2 : a ≤ Config.addrMax)
    (b : Nat) : (m.write a v).read b = if b = a then v else m.read b := by
  induction m generalizing lo with
  | nil => exact Memory.read_mkCons (rest := []) rfl b
  | cons e rest ih =>
    obtain ⟨c, w⟩ := e
    obtain ⟨k1, k2, k3, k4⟩ := Memory.wfFrom_cons.1 hm
    unfold Memory.write
    split
    · exact Memory.read_mkCons (Memory.wfFrom_cons.2 ⟨by omega, k2, k3, k4⟩) b
    · split
      · subst a
        rw [Memory.read_mkCons k4, Memory.read_cons]
        split <;> rfl
      · rw [Memory.read_cons, Memory.read_cons, ih k4]
        split
        · rw [if_neg (by omega)]
        · rfl

theorem Memory.wf_write {a : Nat} {v : Sym} {m : Memory} (hm : m.wf = true) (h : a ≤ Config.addrMax) :
    (m.write a v).wf = true :=
  Memory.wfFrom_write hm (Nat.zero_le a) h

theorem Memory.read_write {a : Nat} {v : Sym} {m : Memory} (hm : m.wf = true) (h : a ≤ Config.addrMax) (b : Nat) :
    (m.write a v).read b = if b = a then v else m.read b :=
  Memory.read_writeFrom hm h b

/-- A write changes no other element, in any memory. -/
theorem Memory.read_write_of_ne {a b : Nat} {v : Sym} (m : Memory) (h : b ≠ a) : (m.write a v).read b = m.read b := by
  have consNe (rest : Memory) : (Memory.cons a v rest).read b = rest.read b := by
    unfold Memory.cons
    split
    · rfl
    · rw [Memory.read_cons, if_neg h]
  induction m with
  | nil => exact consNe []
  | cons e rest ih =>
    obtain ⟨c, w⟩ := e
    unfold Memory.write
    split
    · exact consNe _
    · split
      · rw [consNe, Memory.read_cons, if_neg (by omega)]
      · rw [Memory.read_cons, Memory.read_cons, ih]

theorem Memory.wfFrom_fillFrom (f : Nat → Sym) (count lo : Nat) (h : lo + count ≤ Config.addrMax + 1) :
    (Memory.fillFrom f count lo).wfFrom lo = true := by
  induction count generalizing lo with
  | zero => rfl
  | succ c ih => exact Memory.wfFrom_mkCons (Nat.le_refl lo) (by omega) (ih (lo + 1) (by omega))

theorem Memory.read_fillFrom (f : Nat → Sym) (count lo : Nat) (h : lo + count ≤ Config.addrMax + 1) (b : Nat) :
    (Memory.fillFrom f count lo).read b = if lo ≤ b ∧ b < lo + count then f b else 0 := by
  induction count generalizing lo with
  | zero => rw [if_neg (by omega)]; rfl
  | succ c ih =>
    unfold Memory.fillFrom
    rw [Memory.read_mkCons (Memory.wfFrom_fillFrom f c (lo + 1) (by omega)), ih (lo + 1) (by omega)]
    by_cases hb : b = lo
    · subst b; rw [if_pos rfl, if_pos (by omega)]
    · rw [if_neg hb]
      by_cases hc : lo + 1 ≤ b ∧ b < lo + 1 + c
      · rw [if_pos hc, if_pos (by omega)]
      · rw [if_neg hc, if_neg (by omega)]

theorem Memory.wf_fill (f : Nat → Sym) : (Memory.fill f).wf = true :=
  Memory.wfFrom_fillFrom f Config.nsym 0 (by decide)

theorem Memory.read_fill (f : Nat → Sym) (b : Nat) :
    (Memory.fill f).read b = if b ≤ Config.addrMax then f b else 0 := by
  rw [Memory.fill, Memory.read_fillFrom f Config.nsym 0 (by decide)]
  by_cases h : b ≤ Config.addrMax
  · rw [if_pos h, if_pos ⟨Nat.zero_le b, by simp [Config.nsym, Config.addrMax] at *; omega⟩]
  · rw [if_neg h, if_neg (by simp [Config.nsym, Config.addrMax] at *; omega)]

theorem Memory.wf_addAt {other : Sym} {m : Memory} {a : Nat} (p : Bool) (hm : m.wf = true) (h : a ≤ Config.addrMax) :
    (m.addAt other a p).wf = true :=
  Memory.wf_write hm h

theorem Memory.read_addAt {other : Sym} {m : Memory} {a : Nat} (p : Bool) (hm : m.wf = true) (h : a ≤ Config.addrMax)
    (b : Nat) : (m.addAt other a p).read b = if b = a then addParity other (m.read a) p else m.read b :=
  Memory.read_write hm h b

theorem Memory.wf_seedMemory (sync : BitVec 162) : (seedMemory sync).wf = true := Memory.wf_fill _

theorem Memory.read_seedMemory (sync : BitVec 162) (a : Nat) :
    (seedMemory sync).read a = if a ≤ Config.addrMax then syncSym sync a else 0 :=
  Memory.read_fill _ a

@[simp] theorem State.wf_freeMemory (s : State) : s.freeMemory.wf = true := Memory.wf_fill _

theorem State.reset_sym_wf : State.reset.sym.wf = true := rfl

/-- In the canonical form, memories that read alike are equal. -/
theorem Memory.ext_of_read {lo : Nat} {m m' : Memory} (h : m.wfFrom lo = true) (h' : m'.wfFrom lo = true)
    (e : ∀ a, m.read a = m'.read a) : m = m' := by
  induction m generalizing lo m' with
  | nil =>
    cases m' with
    | nil => rfl
    | cons x rest =>
      obtain ⟨a, v⟩ := x
      have := e a
      rw [Memory.read_cons, if_pos rfl] at this
      exact absurd this.symm (Memory.wfFrom_cons.1 h').2.2.1
  | cons x rest ih =>
    obtain ⟨a, v⟩ := x
    obtain ⟨h1, h2, h3, h4⟩ := Memory.wfFrom_cons.1 h
    cases m' with
    | nil =>
      have := e a
      rw [Memory.read_cons, if_pos rfl] at this
      exact absurd this h3
    | cons x' rest' =>
      obtain ⟨a', v'⟩ := x'
      obtain ⟨k1, k2, k3, k4⟩ := Memory.wfFrom_cons.1 h'
      have ha : a = a' := by
        rcases Nat.lt_trichotomy a a' with hlt | heq | hgt
        · have := e a
          rw [Memory.read_cons, if_pos rfl, Memory.read_cons, if_neg (by omega),
            Memory.read_eq_zero_of_lt k4 (by omega)] at this
          exact absurd this h3
        · exact heq
        · have := e a'
          rw [Memory.read_cons, if_neg (by omega), Memory.read_eq_zero_of_lt h4 (by omega), Memory.read_cons,
            if_pos rfl] at this
          exact absurd this.symm k3
      subst a'
      have hv : v = v' := by simpa [Memory.read_cons] using e a
      subst v'
      rw [ih h4 k4]
      intro b
      by_cases hb : b = a
      · subst b; rw [Memory.read_eq_zero_of_lt h4 (by omega), Memory.read_eq_zero_of_lt k4 (by omega)]
      · simpa [Memory.read_cons, hb] using e b

end Sys2Proof.Machine
end

