-- ==== Sys2Proof/Laws/State.lean ====
section
/-! SUPPORT. One lemma per field per register update, so that no proof unfolds an update. -/

namespace Sys2Proof.Machine

variable (s : State)

@[simp] theorem State.raiseInvalidArgument_callLen : s.raiseInvalidArgument.callLen = s.callLen := rfl
@[simp] theorem State.raiseInvalidArgument_call : s.raiseInvalidArgument.call = s.call := rfl
@[simp] theorem State.raiseInvalidArgument_loc : s.raiseInvalidArgument.loc = s.loc := rfl
@[simp] theorem State.raiseInvalidArgument_pwr : s.raiseInvalidArgument.pwr = s.pwr := rfl
@[simp] theorem State.raiseInvalidArgument_buf : s.raiseInvalidArgument.buf = s.buf := rfl
@[simp] theorem State.raiseInvalidArgument_n : s.raiseInvalidArgument.n = s.n := rfl
@[simp] theorem State.raiseInvalidArgument_m : s.raiseInvalidArgument.m = s.m := rfl
@[simp] theorem State.raiseInvalidArgument_reg : s.raiseInvalidArgument.reg = s.reg := rfl
@[simp] theorem State.raiseInvalidArgument_p0 : s.raiseInvalidArgument.p0 = s.p0 := rfl
@[simp] theorem State.raiseInvalidArgument_p1 : s.raiseInvalidArgument.p1 = s.p1 := rfl
@[simp] theorem State.raiseInvalidArgument_cnt : s.raiseInvalidArgument.cnt = s.cnt := rfl
@[simp] theorem State.raiseInvalidArgument_addr : s.raiseInvalidArgument.addr = s.addr := rfl
@[simp] theorem State.raiseInvalidArgument_k : s.raiseInvalidArgument.k = s.k := rfl
@[simp] theorem State.raiseInvalidArgument_j : s.raiseInvalidArgument.j = s.j := rfl
@[simp] theorem State.raiseInvalidArgument_ph : s.raiseInvalidArgument.ph = .err := rfl
@[simp] theorem State.raiseInvalidArgument_errc : s.raiseInvalidArgument.errc = .invalidArgument := rfl
@[simp] theorem State.raiseInvalidArgument_sym : s.raiseInvalidArgument.sym = s.sym := rfl
@[simp] theorem State.raiseInvalidArgument_ports : s.raiseInvalidArgument.ports = s.ports := rfl
@[simp] theorem State.raiseInvalidArgument_script : s.raiseInvalidArgument.script = s.script := rfl
@[simp] theorem State.raiseInvalidArgument_ret : s.raiseInvalidArgument.ret = s.ret := rfl
@[simp] theorem State.raiseInvalidArgument_freeCount : s.raiseInvalidArgument.freeCount = s.freeCount := rfl

@[simp] theorem State.clearToIdle_callLen : s.clearToIdle.callLen = s.callLen := rfl
@[simp] theorem State.clearToIdle_call : s.clearToIdle.call = s.call := rfl
@[simp] theorem State.clearToIdle_loc : s.clearToIdle.loc = s.loc := rfl
@[simp] theorem State.clearToIdle_pwr : s.clearToIdle.pwr = s.pwr := rfl
@[simp] theorem State.clearToIdle_buf : s.clearToIdle.buf = s.buf := rfl
@[simp] theorem State.clearToIdle_n : s.clearToIdle.n = s.n := rfl
@[simp] theorem State.clearToIdle_m : s.clearToIdle.m = s.m := rfl
@[simp] theorem State.clearToIdle_reg : s.clearToIdle.reg = s.reg := rfl
@[simp] theorem State.clearToIdle_p0 : s.clearToIdle.p0 = s.p0 := rfl
@[simp] theorem State.clearToIdle_p1 : s.clearToIdle.p1 = s.p1 := rfl
@[simp] theorem State.clearToIdle_cnt : s.clearToIdle.cnt = s.cnt := rfl
@[simp] theorem State.clearToIdle_addr : s.clearToIdle.addr = s.addr := rfl
@[simp] theorem State.clearToIdle_k : s.clearToIdle.k = s.k := rfl
@[simp] theorem State.clearToIdle_j : s.clearToIdle.j = s.j := rfl
@[simp] theorem State.clearToIdle_ph : s.clearToIdle.ph = .idle := rfl
@[simp] theorem State.clearToIdle_errc : s.clearToIdle.errc = .none := rfl
@[simp] theorem State.clearToIdle_sym : s.clearToIdle.sym = s.sym := rfl
@[simp] theorem State.clearToIdle_ports : s.clearToIdle.ports = s.ports := rfl
@[simp] theorem State.clearToIdle_script : s.clearToIdle.script = s.script := rfl
@[simp] theorem State.clearToIdle_ret : s.clearToIdle.ret = s.ret := rfl
@[simp] theorem State.clearToIdle_freeCount : s.clearToIdle.freeCount = s.freeCount := rfl

@[simp] theorem State.goto_callLen (p : Phase) : (s.goto p).callLen = s.callLen := rfl
@[simp] theorem State.goto_call (p : Phase) : (s.goto p).call = s.call := rfl
@[simp] theorem State.goto_loc (p : Phase) : (s.goto p).loc = s.loc := rfl
@[simp] theorem State.goto_pwr (p : Phase) : (s.goto p).pwr = s.pwr := rfl
@[simp] theorem State.goto_buf (p : Phase) : (s.goto p).buf = s.buf := rfl
@[simp] theorem State.goto_n (p : Phase) : (s.goto p).n = s.n := rfl
@[simp] theorem State.goto_m (p : Phase) : (s.goto p).m = s.m := rfl
@[simp] theorem State.goto_reg (p : Phase) : (s.goto p).reg = s.reg := rfl
@[simp] theorem State.goto_p0 (p : Phase) : (s.goto p).p0 = s.p0 := rfl
@[simp] theorem State.goto_p1 (p : Phase) : (s.goto p).p1 = s.p1 := rfl
@[simp] theorem State.goto_cnt (p : Phase) : (s.goto p).cnt = s.cnt := rfl
@[simp] theorem State.goto_addr (p : Phase) : (s.goto p).addr = s.addr := rfl
@[simp] theorem State.goto_k (p : Phase) : (s.goto p).k = s.k := rfl
@[simp] theorem State.goto_j (p : Phase) : (s.goto p).j = s.j := rfl
@[simp] theorem State.goto_ph (p : Phase) : (s.goto p).ph = p := rfl
@[simp] theorem State.goto_errc (p : Phase) : (s.goto p).errc = s.errc := rfl
@[simp] theorem State.goto_sym (p : Phase) : (s.goto p).sym = s.sym := rfl
@[simp] theorem State.goto_ports (p : Phase) : (s.goto p).ports = s.ports := rfl
@[simp] theorem State.goto_script (p : Phase) : (s.goto p).script = s.script := rfl
@[simp] theorem State.goto_ret (p : Phase) : (s.goto p).ret = s.ret := rfl
@[simp] theorem State.goto_freeCount (p : Phase) : (s.goto p).freeCount = s.freeCount := rfl

@[simp] theorem State.returns_callLen (r : Ret) : (s.returns r).callLen = s.callLen := rfl
@[simp] theorem State.returns_call (r : Ret) : (s.returns r).call = s.call := rfl
@[simp] theorem State.returns_loc (r : Ret) : (s.returns r).loc = s.loc := rfl
@[simp] theorem State.returns_pwr (r : Ret) : (s.returns r).pwr = s.pwr := rfl
@[simp] theorem State.returns_buf (r : Ret) : (s.returns r).buf = s.buf := rfl
@[simp] theorem State.returns_n (r : Ret) : (s.returns r).n = s.n := rfl
@[simp] theorem State.returns_m (r : Ret) : (s.returns r).m = s.m := rfl
@[simp] theorem State.returns_reg (r : Ret) : (s.returns r).reg = s.reg := rfl
@[simp] theorem State.returns_p0 (r : Ret) : (s.returns r).p0 = s.p0 := rfl
@[simp] theorem State.returns_p1 (r : Ret) : (s.returns r).p1 = s.p1 := rfl
@[simp] theorem State.returns_cnt (r : Ret) : (s.returns r).cnt = s.cnt := rfl
@[simp] theorem State.returns_addr (r : Ret) : (s.returns r).addr = s.addr := rfl
@[simp] theorem State.returns_k (r : Ret) : (s.returns r).k = s.k := rfl
@[simp] theorem State.returns_j (r : Ret) : (s.returns r).j = s.j := rfl
@[simp] theorem State.returns_ph (r : Ret) : (s.returns r).ph = s.ph := rfl
@[simp] theorem State.returns_errc (r : Ret) : (s.returns r).errc = s.errc := rfl
@[simp] theorem State.returns_sym (r : Ret) : (s.returns r).sym = s.sym := rfl
@[simp] theorem State.returns_ports (r : Ret) : (s.returns r).ports = s.ports := rfl
@[simp] theorem State.returns_script (r : Ret) : (s.returns r).script = s.script := rfl
@[simp] theorem State.returns_ret (r : Ret) : (s.returns r).ret = r := rfl
@[simp] theorem State.returns_freeCount (r : Ret) : (s.returns r).freeCount = s.freeCount := rfl

@[simp] theorem State.tookFree_callLen (c : Nat) : (s.tookFree c).callLen = s.callLen := rfl
@[simp] theorem State.tookFree_call (c : Nat) : (s.tookFree c).call = s.call := rfl
@[simp] theorem State.tookFree_loc (c : Nat) : (s.tookFree c).loc = s.loc := rfl
@[simp] theorem State.tookFree_pwr (c : Nat) : (s.tookFree c).pwr = s.pwr := rfl
@[simp] theorem State.tookFree_buf (c : Nat) : (s.tookFree c).buf = s.buf := rfl
@[simp] theorem State.tookFree_n (c : Nat) : (s.tookFree c).n = s.n := rfl
@[simp] theorem State.tookFree_m (c : Nat) : (s.tookFree c).m = s.m := rfl
@[simp] theorem State.tookFree_reg (c : Nat) : (s.tookFree c).reg = s.reg := rfl
@[simp] theorem State.tookFree_p0 (c : Nat) : (s.tookFree c).p0 = s.p0 := rfl
@[simp] theorem State.tookFree_p1 (c : Nat) : (s.tookFree c).p1 = s.p1 := rfl
@[simp] theorem State.tookFree_cnt (c : Nat) : (s.tookFree c).cnt = s.cnt := rfl
@[simp] theorem State.tookFree_addr (c : Nat) : (s.tookFree c).addr = s.addr := rfl
@[simp] theorem State.tookFree_k (c : Nat) : (s.tookFree c).k = s.k := rfl
@[simp] theorem State.tookFree_j (c : Nat) : (s.tookFree c).j = s.j := rfl
@[simp] theorem State.tookFree_ph (c : Nat) : (s.tookFree c).ph = s.ph := rfl
@[simp] theorem State.tookFree_errc (c : Nat) : (s.tookFree c).errc = s.errc := rfl
@[simp] theorem State.tookFree_sym (c : Nat) : (s.tookFree c).sym = s.sym := rfl
@[simp] theorem State.tookFree_ports (c : Nat) : (s.tookFree c).ports = s.ports := rfl
@[simp] theorem State.tookFree_script (c : Nat) : (s.tookFree c).script = s.script := rfl
@[simp] theorem State.tookFree_ret (c : Nat) : (s.tookFree c).ret = s.ret := rfl
@[simp] theorem State.tookFree_freeCount (c : Nat) : (s.tookFree c).freeCount = s.freeCount + c := rfl

@[simp] theorem State.latch_callLen : s.latch.callLen = s.ports.callLen := rfl
@[simp] theorem State.latch_call : s.latch.call = s.ports.callCh := rfl
@[simp] theorem State.latch_loc : s.latch.loc = s.ports.locCh := rfl
@[simp] theorem State.latch_pwr : s.latch.pwr = s.ports.power := rfl
@[simp] theorem State.latch_buf : s.latch.buf = s.buf := rfl
@[simp] theorem State.latch_n : s.latch.n = s.n := rfl
@[simp] theorem State.latch_m : s.latch.m = s.m := rfl
@[simp] theorem State.latch_reg : s.latch.reg = s.reg := rfl
@[simp] theorem State.latch_p0 : s.latch.p0 = s.p0 := rfl
@[simp] theorem State.latch_p1 : s.latch.p1 = s.p1 := rfl
@[simp] theorem State.latch_cnt : s.latch.cnt = s.cnt := rfl
@[simp] theorem State.latch_addr : s.latch.addr = s.addr := rfl
@[simp] theorem State.latch_k : s.latch.k = s.k := rfl
@[simp] theorem State.latch_j : s.latch.j = s.j := rfl
@[simp] theorem State.latch_ph : s.latch.ph = .pack := rfl
@[simp] theorem State.latch_errc : s.latch.errc = .none := rfl
@[simp] theorem State.latch_sym : s.latch.sym = s.sym := rfl
@[simp] theorem State.latch_ports : s.latch.ports = s.ports := rfl
@[simp] theorem State.latch_script : s.latch.script = s.script := rfl
@[simp] theorem State.latch_ret : s.latch.ret = s.ret := rfl
@[simp] theorem State.latch_freeCount : s.latch.freeCount = s.freeCount := rfl

@[simp] theorem State.incK_callLen : s.incK.callLen = s.callLen := rfl
@[simp] theorem State.incK_call : s.incK.call = s.call := rfl
@[simp] theorem State.incK_loc : s.incK.loc = s.loc := rfl
@[simp] theorem State.incK_pwr : s.incK.pwr = s.pwr := rfl
@[simp] theorem State.incK_buf : s.incK.buf = s.buf := rfl
@[simp] theorem State.incK_n : s.incK.n = s.n := rfl
@[simp] theorem State.incK_m : s.incK.m = s.m := rfl
@[simp] theorem State.incK_reg : s.incK.reg = s.reg := rfl
@[simp] theorem State.incK_p0 : s.incK.p0 = s.p0 := rfl
@[simp] theorem State.incK_p1 : s.incK.p1 = s.p1 := rfl
@[simp] theorem State.incK_cnt : s.incK.cnt = s.cnt := rfl
@[simp] theorem State.incK_addr : s.incK.addr = s.addr := rfl
@[simp] theorem State.incK_k : s.incK.k = if s.k.toNat < 127 then s.k + 1 else Config.free 7 s.freeCount := rfl
@[simp] theorem State.incK_j : s.incK.j = s.j := rfl
@[simp] theorem State.incK_ph : s.incK.ph = s.ph := rfl
@[simp] theorem State.incK_errc : s.incK.errc = s.errc := rfl
@[simp] theorem State.incK_sym : s.incK.sym = s.sym := rfl
@[simp] theorem State.incK_ports : s.incK.ports = s.ports := rfl
@[simp] theorem State.incK_script : s.incK.script = s.script := rfl
@[simp] theorem State.incK_ret : s.incK.ret = s.ret := rfl
@[simp] theorem State.incK_freeCount : s.incK.freeCount = s.freeCount + (if s.k.toNat < 127 then 0 else 1) := rfl

@[simp] theorem State.incJ_callLen : s.incJ.callLen = s.callLen := rfl
@[simp] theorem State.incJ_call : s.incJ.call = s.call := rfl
@[simp] theorem State.incJ_loc : s.incJ.loc = s.loc := rfl
@[simp] theorem State.incJ_pwr : s.incJ.pwr = s.pwr := rfl
@[simp] theorem State.incJ_buf : s.incJ.buf = s.buf := rfl
@[simp] theorem State.incJ_n : s.incJ.n = s.n := rfl
@[simp] theorem State.incJ_m : s.incJ.m = s.m := rfl
@[simp] theorem State.incJ_reg : s.incJ.reg = s.reg := rfl
@[simp] theorem State.incJ_p0 : s.incJ.p0 = s.p0 := rfl
@[simp] theorem State.incJ_p1 : s.incJ.p1 = s.p1 := rfl
@[simp] theorem State.incJ_cnt : s.incJ.cnt = s.cnt := rfl
@[simp] theorem State.incJ_addr : s.incJ.addr = s.addr := rfl
@[simp] theorem State.incJ_k : s.incJ.k = s.k := rfl
@[simp] theorem State.incJ_j : s.incJ.j = if s.j.toNat < 255 then s.j + 1 else Config.free 8 s.freeCount := rfl
@[simp] theorem State.incJ_ph : s.incJ.ph = s.ph := rfl
@[simp] theorem State.incJ_errc : s.incJ.errc = s.errc := rfl
@[simp] theorem State.incJ_sym : s.incJ.sym = s.sym := rfl
@[simp] theorem State.incJ_ports : s.incJ.ports = s.ports := rfl
@[simp] theorem State.incJ_script : s.incJ.script = s.script := rfl
@[simp] theorem State.incJ_ret : s.incJ.ret = s.ret := rfl
@[simp] theorem State.incJ_freeCount : s.incJ.freeCount = s.freeCount + (if s.j.toNat < 255 then 0 else 1) := rfl

@[simp] theorem State.resetRegisters_ph : s.resetRegisters.ph = .idle := rfl
@[simp] theorem State.resetRegisters_errc : s.resetRegisters.errc = .none := rfl
@[simp] theorem State.resetRegisters_sym : s.resetRegisters.sym = s.freeMemory := rfl
@[simp] theorem State.resetRegisters_ports : s.resetRegisters.ports = s.ports := rfl
@[simp] theorem State.resetRegisters_script : s.resetRegisters.script = s.script := rfl
@[simp] theorem State.resetRegisters_ret : s.resetRegisters.ret = s.ret := rfl
@[simp] theorem State.resetRegisters_freeCount : s.resetRegisters.freeCount = s.freeCount + Config.nsym := rfl

@[simp] theorem State.advance_callLen : s.advance.callLen = s.callLen := rfl
@[simp] theorem State.advance_call : s.advance.call = s.call := rfl
@[simp] theorem State.advance_loc : s.advance.loc = s.loc := rfl
@[simp] theorem State.advance_pwr : s.advance.pwr = s.pwr := rfl
@[simp] theorem State.advance_buf : s.advance.buf = s.buf := rfl
@[simp] theorem State.advance_n : s.advance.n = s.n := rfl
@[simp] theorem State.advance_m : s.advance.m = s.m := rfl
@[simp] theorem State.advance_reg : s.advance.reg = s.reg := rfl
@[simp] theorem State.advance_p0 : s.advance.p0 = s.p0 := rfl
@[simp] theorem State.advance_p1 : s.advance.p1 = s.p1 := rfl
@[simp] theorem State.advance_cnt : s.advance.cnt = s.cnt := rfl
@[simp] theorem State.advance_addr : s.advance.addr = s.addr := rfl
@[simp] theorem State.advance_k : s.advance.k = s.k := rfl
@[simp] theorem State.advance_j : s.advance.j = s.j := rfl
@[simp] theorem State.advance_ph : s.advance.ph = s.ph := rfl
@[simp] theorem State.advance_errc : s.advance.errc = s.errc := rfl
@[simp] theorem State.advance_sym : s.advance.sym = s.sym := rfl
@[simp] theorem State.advance_ports : s.advance.ports = s.script.headD s.ports := rfl
@[simp] theorem State.advance_script : s.advance.script = s.script.tail := rfl
@[simp] theorem State.advance_ret : s.advance.ret = s.ret := rfl
@[simp] theorem State.advance_freeCount : s.advance.freeCount = s.freeCount := rfl

@[simp] theorem State.packFields_callLen : s.packFields.callLen = s.callLen := rfl
@[simp] theorem State.packFields_call : s.packFields.call = s.call := rfl
@[simp] theorem State.packFields_loc : s.packFields.loc = s.loc := rfl
@[simp] theorem State.packFields_pwr : s.packFields.pwr = s.pwr := rfl
@[simp] theorem State.packFields_buf : s.packFields.buf = layoutChars s.callLen.toNat s.call := rfl
@[simp] theorem State.packFields_n : s.packFields.n = packNField (layoutChars s.callLen.toNat s.call) := rfl
@[simp] theorem State.packFields_m : s.packFields.m = packMField s.loc s.pwr.toInt := rfl
@[simp] theorem State.packFields_reg : s.packFields.reg = s.reg := rfl
@[simp] theorem State.packFields_p0 : s.packFields.p0 = s.p0 := rfl
@[simp] theorem State.packFields_p1 : s.packFields.p1 = s.p1 := rfl
@[simp] theorem State.packFields_cnt : s.packFields.cnt = s.cnt := rfl
@[simp] theorem State.packFields_addr : s.packFields.addr = s.addr := rfl
@[simp] theorem State.packFields_k : s.packFields.k = s.k := rfl
@[simp] theorem State.packFields_j : s.packFields.j = s.j := rfl
@[simp] theorem State.packFields_ph : s.packFields.ph = .seed := rfl
@[simp] theorem State.packFields_errc : s.packFields.errc = s.errc := rfl
@[simp] theorem State.packFields_sym : s.packFields.sym = s.sym := rfl
@[simp] theorem State.packFields_ports : s.packFields.ports = s.ports := rfl
@[simp] theorem State.packFields_script : s.packFields.script = s.script := rfl
@[simp] theorem State.packFields_ret : s.packFields.ret = s.ret := rfl
@[simp] theorem State.packFields_freeCount : s.packFields.freeCount = s.freeCount := rfl

@[simp] theorem State.ceStep_callLen (b : Bool) : (s.ceStep b).callLen = s.callLen := rfl
@[simp] theorem State.ceStep_call (b : Bool) : (s.ceStep b).call = s.call := rfl
@[simp] theorem State.ceStep_loc (b : Bool) : (s.ceStep b).loc = s.loc := rfl
@[simp] theorem State.ceStep_pwr (b : Bool) : (s.ceStep b).pwr = s.pwr := rfl
@[simp] theorem State.ceStep_buf (b : Bool) : (s.ceStep b).buf = s.buf := rfl
@[simp] theorem State.ceStep_n (b : Bool) : (s.ceStep b).n = s.n := rfl
@[simp] theorem State.ceStep_m (b : Bool) : (s.ceStep b).m = s.m := rfl
@[simp] theorem State.ceStep_reg (b : Bool) : (s.ceStep b).reg = shiftIn s.reg b := rfl
@[simp] theorem State.ceStep_p0 (b : Bool) : (s.ceStep b).p0 = flagP0 (shiftIn s.reg b) := by
  simp only [State.ceStep]
@[simp] theorem State.ceStep_p1 (b : Bool) : (s.ceStep b).p1 = flagP1 (shiftIn s.reg b) := by
  simp only [State.ceStep]
@[simp] theorem State.ceStep_cnt (b : Bool) : (s.ceStep b).cnt = s.cnt := rfl
@[simp] theorem State.ceStep_addr (b : Bool) : (s.ceStep b).addr = s.addr := rfl
@[simp] theorem State.ceStep_k (b : Bool) : (s.ceStep b).k = s.k := rfl
@[simp] theorem State.ceStep_j (b : Bool) : (s.ceStep b).j = s.j := rfl
@[simp] theorem State.ceStep_ph (b : Bool) : (s.ceStep b).ph = s.ph := rfl
@[simp] theorem State.ceStep_errc (b : Bool) : (s.ceStep b).errc = s.errc := rfl
@[simp] theorem State.ceStep_sym (b : Bool) : (s.ceStep b).sym = s.sym := rfl
@[simp] theorem State.ceStep_ports (b : Bool) : (s.ceStep b).ports = s.ports := rfl
@[simp] theorem State.ceStep_script (b : Bool) : (s.ceStep b).script = s.script := rfl
@[simp] theorem State.ceStep_ret (b : Bool) : (s.ceStep b).ret = s.ret := rfl
@[simp] theorem State.ceStep_freeCount (b : Bool) : (s.ceStep b).freeCount = s.freeCount := rfl

@[simp] theorem State.ceInit_callLen : s.ceInit.callLen = s.callLen := rfl
@[simp] theorem State.ceInit_call : s.ceInit.call = s.call := rfl
@[simp] theorem State.ceInit_loc : s.ceInit.loc = s.loc := rfl
@[simp] theorem State.ceInit_pwr : s.ceInit.pwr = s.pwr := rfl
@[simp] theorem State.ceInit_buf : s.ceInit.buf = s.buf := rfl
@[simp] theorem State.ceInit_n : s.ceInit.n = s.n := rfl
@[simp] theorem State.ceInit_m : s.ceInit.m = s.m := rfl
@[simp] theorem State.ceInit_reg : s.ceInit.reg = 0 := rfl
@[simp] theorem State.ceInit_p0 : s.ceInit.p0 = s.p0 := rfl
@[simp] theorem State.ceInit_p1 : s.ceInit.p1 = s.p1 := rfl
@[simp] theorem State.ceInit_cnt : s.ceInit.cnt = s.cnt := rfl
@[simp] theorem State.ceInit_addr : s.ceInit.addr = s.addr := rfl
@[simp] theorem State.ceInit_k : s.ceInit.k = s.k := rfl
@[simp] theorem State.ceInit_j : s.ceInit.j = s.j := rfl
@[simp] theorem State.ceInit_ph : s.ceInit.ph = s.ph := rfl
@[simp] theorem State.ceInit_errc : s.ceInit.errc = s.errc := rfl
@[simp] theorem State.ceInit_sym : s.ceInit.sym = s.sym := rfl
@[simp] theorem State.ceInit_ports : s.ceInit.ports = s.ports := rfl
@[simp] theorem State.ceInit_script : s.ceInit.script = s.script := rfl
@[simp] theorem State.ceInit_ret : s.ceInit.ret = s.ret := rfl
@[simp] theorem State.ceInit_freeCount : s.ceInit.freeCount = s.freeCount := rfl

@[simp] theorem State.ilInit_callLen : s.ilInit.callLen = s.callLen := rfl
@[simp] theorem State.ilInit_call : s.ilInit.call = s.call := rfl
@[simp] theorem State.ilInit_loc : s.ilInit.loc = s.loc := rfl
@[simp] theorem State.ilInit_pwr : s.ilInit.pwr = s.pwr := rfl
@[simp] theorem State.ilInit_buf : s.ilInit.buf = s.buf := rfl
@[simp] theorem State.ilInit_n : s.ilInit.n = s.n := rfl
@[simp] theorem State.ilInit_m : s.ilInit.m = s.m := rfl
@[simp] theorem State.ilInit_reg : s.ilInit.reg = s.reg := rfl
@[simp] theorem State.ilInit_p0 : s.ilInit.p0 = s.p0 := rfl
@[simp] theorem State.ilInit_p1 : s.ilInit.p1 = s.p1 := rfl
@[simp] theorem State.ilInit_cnt : s.ilInit.cnt = 0 := rfl
@[simp] theorem State.ilInit_addr : s.ilInit.addr = s.addr := rfl
@[simp] theorem State.ilInit_k : s.ilInit.k = s.k := rfl
@[simp] theorem State.ilInit_j : s.ilInit.j = s.j := rfl
@[simp] theorem State.ilInit_ph : s.ilInit.ph = s.ph := rfl
@[simp] theorem State.ilInit_errc : s.ilInit.errc = s.errc := rfl
@[simp] theorem State.ilInit_sym : s.ilInit.sym = s.sym := rfl
@[simp] theorem State.ilInit_ports : s.ilInit.ports = s.ports := rfl
@[simp] theorem State.ilInit_script : s.ilInit.script = s.script := rfl
@[simp] theorem State.ilInit_ret : s.ilInit.ret = s.ret := rfl
@[simp] theorem State.ilInit_freeCount : s.ilInit.freeCount = s.freeCount := rfl

@[simp] theorem State.seedSym_callLen : s.seedSym.callLen = s.callLen := rfl
@[simp] theorem State.seedSym_call : s.seedSym.call = s.call := rfl
@[simp] theorem State.seedSym_loc : s.seedSym.loc = s.loc := rfl
@[simp] theorem State.seedSym_pwr : s.seedSym.pwr = s.pwr := rfl
@[simp] theorem State.seedSym_buf : s.seedSym.buf = s.buf := rfl
@[simp] theorem State.seedSym_n : s.seedSym.n = s.n := rfl
@[simp] theorem State.seedSym_m : s.seedSym.m = s.m := rfl
@[simp] theorem State.seedSym_reg : s.seedSym.reg = s.reg := rfl
@[simp] theorem State.seedSym_p0 : s.seedSym.p0 = s.p0 := rfl
@[simp] theorem State.seedSym_p1 : s.seedSym.p1 = s.p1 := rfl
@[simp] theorem State.seedSym_cnt : s.seedSym.cnt = s.cnt := rfl
@[simp] theorem State.seedSym_addr : s.seedSym.addr = s.addr := rfl
@[simp] theorem State.seedSym_k : s.seedSym.k = s.k := rfl
@[simp] theorem State.seedSym_j : s.seedSym.j = s.j := rfl
@[simp] theorem State.seedSym_ph : s.seedSym.ph = s.ph := rfl
@[simp] theorem State.seedSym_errc : s.seedSym.errc = s.errc := rfl
@[simp] theorem State.seedSym_sym : s.seedSym.sym = seedMemory Config.sync := rfl
@[simp] theorem State.seedSym_ports : s.seedSym.ports = s.ports := rfl
@[simp] theorem State.seedSym_script : s.seedSym.script = s.script := rfl
@[simp] theorem State.seedSym_ret : s.seedSym.ret = s.ret := rfl
@[simp] theorem State.seedSym_freeCount : s.seedSym.freeCount = s.freeCount := rfl

@[simp] theorem State.clearCounts_callLen : s.clearCounts.callLen = s.callLen := rfl
@[simp] theorem State.clearCounts_call : s.clearCounts.call = s.call := rfl
@[simp] theorem State.clearCounts_loc : s.clearCounts.loc = s.loc := rfl
@[simp] theorem State.clearCounts_pwr : s.clearCounts.pwr = s.pwr := rfl
@[simp] theorem State.clearCounts_buf : s.clearCounts.buf = s.buf := rfl
@[simp] theorem State.clearCounts_n : s.clearCounts.n = s.n := rfl
@[simp] theorem State.clearCounts_m : s.clearCounts.m = s.m := rfl
@[simp] theorem State.clearCounts_reg : s.clearCounts.reg = s.reg := rfl
@[simp] theorem State.clearCounts_p0 : s.clearCounts.p0 = s.p0 := rfl
@[simp] theorem State.clearCounts_p1 : s.clearCounts.p1 = s.p1 := rfl
@[simp] theorem State.clearCounts_cnt : s.clearCounts.cnt = s.cnt := rfl
@[simp] theorem State.clearCounts_addr : s.clearCounts.addr = s.addr := rfl
@[simp] theorem State.clearCounts_k : s.clearCounts.k = 0 := rfl
@[simp] theorem State.clearCounts_j : s.clearCounts.j = 0 := rfl
@[simp] theorem State.clearCounts_ph : s.clearCounts.ph = s.ph := rfl
@[simp] theorem State.clearCounts_errc : s.clearCounts.errc = s.errc := rfl
@[simp] theorem State.clearCounts_sym : s.clearCounts.sym = s.sym := rfl
@[simp] theorem State.clearCounts_ports : s.clearCounts.ports = s.ports := rfl
@[simp] theorem State.clearCounts_script : s.clearCounts.script = s.script := rfl
@[simp] theorem State.clearCounts_ret : s.clearCounts.ret = s.ret := rfl
@[simp] theorem State.clearCounts_freeCount : s.clearCounts.freeCount = s.freeCount := rfl

@[simp] theorem State.addElement_callLen (a : Nat) (p : Bool) : (s.addElement a p).callLen = s.callLen := rfl
@[simp] theorem State.addElement_call (a : Nat) (p : Bool) : (s.addElement a p).call = s.call := rfl
@[simp] theorem State.addElement_loc (a : Nat) (p : Bool) : (s.addElement a p).loc = s.loc := rfl
@[simp] theorem State.addElement_pwr (a : Nat) (p : Bool) : (s.addElement a p).pwr = s.pwr := rfl
@[simp] theorem State.addElement_buf (a : Nat) (p : Bool) : (s.addElement a p).buf = s.buf := rfl
@[simp] theorem State.addElement_n (a : Nat) (p : Bool) : (s.addElement a p).n = s.n := rfl
@[simp] theorem State.addElement_m (a : Nat) (p : Bool) : (s.addElement a p).m = s.m := rfl
@[simp] theorem State.addElement_reg (a : Nat) (p : Bool) : (s.addElement a p).reg = s.reg := rfl
@[simp] theorem State.addElement_p0 (a : Nat) (p : Bool) : (s.addElement a p).p0 = s.p0 := rfl
@[simp] theorem State.addElement_p1 (a : Nat) (p : Bool) : (s.addElement a p).p1 = s.p1 := rfl
@[simp] theorem State.addElement_cnt (a : Nat) (p : Bool) : (s.addElement a p).cnt = s.cnt := rfl
@[simp] theorem State.addElement_addr (a : Nat) (p : Bool) : (s.addElement a p).addr = s.addr := rfl
@[simp] theorem State.addElement_k (a : Nat) (p : Bool) : (s.addElement a p).k = s.k := rfl
@[simp] theorem State.addElement_j (a : Nat) (p : Bool) : (s.addElement a p).j = s.j := rfl
@[simp] theorem State.addElement_ph (a : Nat) (p : Bool) : (s.addElement a p).ph = s.ph := rfl
@[simp] theorem State.addElement_errc (a : Nat) (p : Bool) : (s.addElement a p).errc = s.errc := rfl
@[simp] theorem State.addElement_sym (a : Nat) (p : Bool) :
    (s.addElement a p).sym = s.sym.addAt (Config.free 2 s.freeCount) a p := rfl
@[simp] theorem State.addElement_ports (a : Nat) (p : Bool) : (s.addElement a p).ports = s.ports := rfl
@[simp] theorem State.addElement_script (a : Nat) (p : Bool) : (s.addElement a p).script = s.script := rfl
@[simp] theorem State.addElement_ret (a : Nat) (p : Bool) : (s.addElement a p).ret = s.ret := rfl
@[simp] theorem State.addElement_freeCount (a : Nat) (p : Bool) :
    (s.addElement a p).freeCount = s.freeCount + (if fitsSym (s.sym.read a) p then 0 else 1) := rfl

@[simp] theorem State.loseSym_callLen : s.loseSym.callLen = s.callLen := rfl
@[simp] theorem State.loseSym_call : s.loseSym.call = s.call := rfl
@[simp] theorem State.loseSym_loc : s.loseSym.loc = s.loc := rfl
@[simp] theorem State.loseSym_pwr : s.loseSym.pwr = s.pwr := rfl
@[simp] theorem State.loseSym_buf : s.loseSym.buf = s.buf := rfl
@[simp] theorem State.loseSym_n : s.loseSym.n = s.n := rfl
@[simp] theorem State.loseSym_m : s.loseSym.m = s.m := rfl
@[simp] theorem State.loseSym_reg : s.loseSym.reg = s.reg := rfl
@[simp] theorem State.loseSym_p0 : s.loseSym.p0 = s.p0 := rfl
@[simp] theorem State.loseSym_p1 : s.loseSym.p1 = s.p1 := rfl
@[simp] theorem State.loseSym_cnt : s.loseSym.cnt = s.cnt := rfl
@[simp] theorem State.loseSym_addr : s.loseSym.addr = s.addr := rfl
@[simp] theorem State.loseSym_k : s.loseSym.k = s.k := rfl
@[simp] theorem State.loseSym_j : s.loseSym.j = s.j := rfl
@[simp] theorem State.loseSym_ph : s.loseSym.ph = s.ph := rfl
@[simp] theorem State.loseSym_errc : s.loseSym.errc = s.errc := rfl
@[simp] theorem State.loseSym_sym : s.loseSym.sym = s.freeMemory := rfl
@[simp] theorem State.loseSym_ports : s.loseSym.ports = s.ports := rfl
@[simp] theorem State.loseSym_script : s.loseSym.script = s.script := rfl
@[simp] theorem State.loseSym_ret : s.loseSym.ret = s.ret := rfl
@[simp] theorem State.loseSym_freeCount : s.loseSym.freeCount = s.freeCount + Config.nsym := rfl

end Sys2Proof.Machine
end

