-- ==== Sys2Proof/Laws/Ops.lean ====
section
/-! SUPPORT. One lemma per shared operation: everything it can do. Provers cite these instead of unfolding the operations. -/

namespace Sys2Proof.Machine

/-! ### Characters, lengths, the check -/

theorem charAt6_chars6 (f : Nat → Byte) {i : Nat} (h : i < 6) : charAt6 (chars6 f) i = f i := by
  match i, h with
  | 0, _ => rfl
  | 1, _ => rfl
  | 2, _ => rfl
  | 3, _ => rfl
  | 4, _ => rfl
  | 5, _ => rfl

theorem charAt4_chars4 (f : Nat → Byte) {i : Nat} (h : i < 4) : charAt4 (chars4 f) i = f i := by
  match i, h with
  | 0, _ => rfl
  | 1, _ => rfl
  | 2, _ => rfl
  | 3, _ => rfl

theorem chars6_ext {a b : Chars6} (h : ∀ i, i < 6 → charAt6 a i = charAt6 b i) : a = b := by
  cases a; cases b
  simpa [charAt6] using And.intro (h 0 (by decide)) ⟨h 1 (by decide), h 2 (by decide), h 3 (by decide),
    h 4 (by decide), h 5 (by decide)⟩

theorem chars4_ext {a b : Chars4} (h : ∀ i, i < 4 → charAt4 a i = charAt4 b i) : a = b := by
  cases a; cases b
  simpa [charAt4] using And.intro (h 0 (by decide)) ⟨h 1 (by decide), h 2 (by decide), h 3 (by decide)⟩

theorem checkLens_eq_true (callLen locLen : Nat) :
    checkLens callLen locLen = true ↔ callLen ≠ 0 ∧ locLen = 4 := by
  unfold checkLens Config.locLenReq
  split <;> simp_all

theorem toNat_presentLen (len : Nat) : (presentLen len).toNat = min len 7 := by
  unfold presentLen
  rw [BitVec.toNat_ofNat]
  omega

/-- The saturated lengths decide the check as the lengths do (10_state.md R21). -/
theorem checkLens_presentLen (callLen locLen : Nat) :
    checkLens (presentLen callLen).toNat (presentLen locLen).toNat = checkLens callLen locLen := by
  rw [Bool.eq_iff_iff, checkLens_eq_true, checkLens_eq_true, toNat_presentLen, toNat_presentLen]
  omega

/-- `layout` of a saturated length is `layout` of the length (40_field_packer.md R126: 6 and 7 behave alike). -/
theorem layoutChars_presentLen (len : Nat) (c : Chars6) :
    layoutChars (presentLen len).toNat c = layoutChars len c := by
  rw [toNat_presentLen]
  unfold layoutChars
  rw [show min (min len 7) 5 = min len 5 by omega, show min (min len 7) 6 = min len 6 by omega]
  have h2 : (2 ≤ min len 7) = (2 ≤ len) := propext ⟨fun h => by omega, fun h => by omega⟩
  have h3 : (3 ≤ min len 7) = (3 ≤ len) := propext ⟨fun h => by omega, fun h => by omega⟩
  simp only [h2, h3]

/-- `layout` reads a character only below the length. -/
theorem layoutChars_congr {len : Nat} {c d : Chars6} (h : ∀ i, i < min len 6 → charAt6 c i = charAt6 d i) :
    layoutChars len c = layoutChars len d := by
  unfold layoutChars
  by_cases h2 : 2 ≤ len
  · rw [h 1 (by omega)]
    by_cases hA : 2 ≤ len ∧ isDigit (charAt6 d 1) = true
    · rw [if_pos hA, if_pos hA]
      apply chars6_ext
      intro i hi
      rw [charAt6_chars6 _ hi, charAt6_chars6 _ hi]
      split
      · exact h (i - 1) (by omega)
      · rfl
    · rw [if_neg hA, if_neg hA]
      by_cases h3 : 3 ≤ len
      · rw [h 2 (by omega)]
        split
        · apply chars6_ext
          intro i hi
          rw [charAt6_chars6 _ hi, charAt6_chars6 _ hi]
          split
          · exact h i ‹_›
          · rfl
        · rfl
      · rw [if_neg (fun x => h3 x.1), if_neg (fun x => h3 x.1)]
  · have h3 : ¬ 3 ≤ len := fun x => h2 (by omega)
    simp only [h2, h3, false_and, if_false]

theorem charValue_le (c : Byte) : charValue c ≤ 36 := by
  unfold charValue isDigit isUpper isLower
  split
  · simp_all; omega
  · split
    · simp_all; omega
    · split
      · simp_all; omega
      · split <;> omega

/-- The composition of the field packer on arguments that pass the check. -/
theorem packStrings_of_valid {call loc : List Byte} (hc : call ≠ []) (hl : loc.length = 4) (p : Int) :
    packStrings call loc p =
      some (packNField (layoutChars call.length (firstSix call)), packMField (firstFour loc) p) :=
  if_pos ((checkLens_eq_true _ _).2 ⟨fun h => hc (List.length_eq_zero_iff.1 h), hl⟩)

/-- The composition of the field packer on arguments that do not. -/
theorem packStrings_of_invalid {call loc : List Byte} (h : call = [] ∨ loc.length ≠ 4) (p : Int) :
    packStrings call loc p = none := by
  apply if_neg
  rw [checkLens_eq_true]
  rintro ⟨h1, h2⟩
  rcases h with rfl | h
  · exact h1 rfl
  · exact h h2

/-! ### The encoder -/

theorem schedBit_isSome (n : PackedN) (m : PackedM) (k : Nat) : (schedBit n m k).isSome = decide (k ≤ 80) := by
  unfold schedBit
  split
  · simp; omega
  · split
    · simp; omega
    · split <;> simp_all

/-- In the domain of `bitsched` no free value is taken. -/
theorem schedBitOrFree_of_le {n : PackedN} {m : PackedM} {k : Nat} (h : k ≤ 80) (i : Nat) :
    schedBitOrFree n m k i = (schedBit n m k).getD false := by
  have hs := schedBit_isSome n m k
  unfold schedBitOrFree
  cases hb : schedBit n m k with
  | none => rw [hb] at hs; simp [h] at hs
  | some b => rfl

theorem schedFreeTaken_of_le {k : Nat} (h : k ≤ 80) : schedFreeTaken k = 0 := if_pos h

theorem length_convFrom (n : PackedN) (m : PackedM) (count k : Nat) (r : Word) :
    (convFrom n m count k r).length = 2 * count := by
  induction count generalizing k r with
  | zero => rfl
  | succ c ih => simp only [convFrom, List.length_cons, ih]; omega

/-! ### The interleaver -/

/-- A draw that ends: where it ends, everything before is discarded. -/
theorem drawWithin_some {fuel : Nat} {c a c' : Byte} (h : drawWithin fuel c = some (a, c')) :
    a = rev8Bits (c' - 1) ∧ a.toNat ≤ Config.addrMax := by
  induction fuel generalizing c with
  | zero => simp [drawWithin] at h
  | succ f ih =>
    unfold drawWithin at h
    split at h
    · rename_i hk
      obtain ⟨rfl, rfl⟩ := by simpa using h
      refine ⟨by congr 1; bv_omega, by simpa [keeps] using hk⟩
    · exact ih h

/-- A draw that examines one counter value. -/
theorem drawWithin_of_keeps {c : Byte} (fuel : Nat) (h : keeps c = true) :
    drawWithin (fuel + 1) c = some (rev8Bits c, c + 1) := by
  simp [drawWithin, h]

/-- A draw that discards the first counter value. -/
theorem drawWithin_of_not_keeps {c : Byte} (fuel : Nat) (h : keeps c = false) :
    drawWithin (fuel + 1) c = drawWithin fuel (c + 1) := by
  simp [drawWithin, h]

/-- Passing one more counter value counts one more draw exactly if the value is kept. -/
theorem keptBelow_succ (c : Nat) :
    keptBelow (c + 1) = keptBelow c + (if keeps (BitVec.ofNat 8 c) then 1 else 0) := by
  unfold keptBelow
  rw [List.range_succ, List.filter_append, List.length_append]
  congr 1
  simp only [List.filter_cons, List.filter_nil]
  split <;> rfl

/-! ### Placing a parity bit -/

theorem addParity_of_fits {other v : Sym} {p : Bool} (h : v.toNat + 2 * p.toNat ≤ 3) :
    (addParity other v p).toNat = v.toNat + 2 * p.toNat := by
  unfold addParity fitsSym
  rw [if_pos (by simpa using h), BitVec.toNat_ofNat]
  omega

/-- Everything `placeAt` can do. -/
theorem placeAt_next {a : Byte} {p : Bool} {s t : State} (h : placeAt a p s = .next t) :
    a.toNat ≤ Config.addrMax ∧ t = s.addElement a.toNat p := by
  unfold placeAt at h
  split at h
  · exact ⟨‹_›, by simpa using h.symm⟩
  · simp at h

theorem placeAt_of_le {a : Byte} (h : a.toNat ≤ Config.addrMax) (p : Bool) (s : State) :
    placeAt a p s = .next (s.addElement a.toNat p) :=
  if_pos h

/-- Everything the buffer write of `PLACE` can do. -/
theorem State.placeLatched_cases (s : State) :
    (s.addr.toNat ≤ Config.addrMax ∧ s.placeLatched = s.addElement s.addr.toNat s.placeBit) ∨
      (Config.addrMax < s.addr.toNat ∧ s.placeLatched = s.loseSym) := by
  unfold State.placeLatched
  split
  · exact .inl ⟨‹_›, rfl⟩
  · exact .inr ⟨by omega, rfl⟩

theorem State.placeLatched_of_le {s : State} (h : s.addr.toNat ≤ Config.addrMax) :
    s.placeLatched = s.addElement s.addr.toNat s.placeBit :=
  if_pos h

/-- The buffer write of `PLACE` changes the buffer and the count of free values only. -/
theorem State.placeLatched_frame (s : State) :
    s.placeLatched = { s with sym := s.placeLatched.sym, freeCount := s.placeLatched.freeCount } := by
  obtain ⟨-, h⟩ | ⟨-, h⟩ := s.placeLatched_cases <;> rw [h] <;> rfl

/-- Whatever the address latch holds, `PLACE` keeps the canonical form. -/
theorem State.wf_placeLatched {s : State} (h : s.sym.wf = true) : s.placeLatched.sym.wf = true := by
  obtain ⟨ha, hp⟩ | ⟨-, hp⟩ := s.placeLatched_cases <;> rw [hp]
  · exact Memory.wf_addAt _ h ha
  · exact s.wf_freeMemory

/-! ### Counting -/

theorem State.incK_of_lt {s : State} (h : s.k.toNat < 127) : s.incK = { s with k := s.k + 1 } := by
  simp [State.incK, h]

theorem State.incJ_of_lt {s : State} (h : s.j.toNat < 255) : s.incJ = { s with j := s.j + 1 } := by
  simp [State.incJ, h]

/-! ### Host commands -/

/-- Everything an accepted `START` can do. -/
theorem startAccepted_cases (s : State) :
    (s.ports.callLen.toNat ≠ 0 ∧ s.ports.locLen.toNat = 4 ∧ startAccepted s = .next s.latch) ∨
      ((s.ports.callLen.toNat = 0 ∨ s.ports.locLen.toNat ≠ 4) ∧ startAccepted s = .next s.raiseInvalidArgument) := by
  unfold startAccepted
  cases h : checkLens s.ports.callLen.toNat s.ports.locLen.toNat with
  | true => exact .inl ⟨((checkLens_eq_true _ _).1 h).1, ((checkLens_eq_true _ _).1 h).2, if_pos rfl⟩
  | false =>
    refine .inr ⟨?_, by simp⟩
    by_contra hc
    have := (checkLens_eq_true s.ports.callLen.toNat s.ports.locLen.toNat).2 (by omega)
    simp [h] at this

/-- Everything the host command of an edge can do. -/
theorem hostCommand_cases (s : State) :
    hostCommand s = .next s ∨ hostCommand s = .next s.clearToIdle ∨
      hostCommand s = .next s.latch ∨ hostCommand s = .next s.raiseInvalidArgument := by
  unfold hostCommand
  split
  · exact .inl rfl
  · cases decodeCommand s.ports.cmd with
    | nop => exact .inl rfl
    | start =>
      rcases startAccepted_cases s with ⟨-, -, h⟩ | ⟨-, h⟩
      · exact .inr (.inr (.inl h))
      · exact .inr (.inr (.inr h))
    | clear => exact .inr (.inl rfl)
    | rsvd3 => exact .inl rfl

/-! ### Outcomes -/

@[simp] theorem mapNext_next (f : State → State) (s : State) : mapNext f (.next s) = .next (f s) := rfl

@[simp] theorem mapNext_fault (f : State → State) (r : Fault) : mapNext f (.fault r) = .fault r := rfl

@[simp] theorem mapNext_refused (f : State → State) (r : Refusal) : mapNext f (.refused r) = .refused r := rfl

theorem mapNext_eq_next {f : State → State} {o : Host.Outcome State Fault Refusal} {t : State}
    (h : mapNext f o = .next t) : ∃ u, o = .next u ∧ t = f u := by
  cases o with
  | next u => exact ⟨u, rfl, by simpa using h.symm⟩
  | fault r => simp at h
  | refused r => simp at h

/-- Everything `withFetchWord`'s operation can do to the state: the phase and the ports `rst` and `cmd`. -/
theorem placeWord_eq (s : State) (f : Format) (b : Byte) :
    placeWord s f b = { s with ph := (placeWord s f b).ph, ports := (placeWord s f b).ports } := by
  cases f <;> rfl

end Sys2Proof.Machine
end

