-- ==== Sys2Proof/Laws/PerInstr.lean ====
section
/-! SUPPORT. The per-instruction family RoundTrip: the words of an operation decode to it; a function of format F has none. -/

namespace Sys2Proof.Laws.RoundTrip

/-- What the encoder writes for `i`, the decoder reads as `i`; and only a function of format F has no words (R108). -/
def Statement (i : Instr) : Prop :=
  ∀ f bs, Sys2Proof.encode i = some (f, bs) → decode f bs = .ok i

/-- An operation with words keeps its statement if they decode to it. -/
theorem of_words {i : Instr} {f : Format} {bs : List Byte} (h : Sys2Proof.encode i = some (f, bs))
    (d : decode f bs = .ok i) : Statement i := by
  intro g cs hg
  obtain ⟨rfl, rfl⟩ : f = g ∧ bs = cs := by simpa [h] using hg
  exact d

/-- An operation without words keeps it trivially. -/
theorem of_none {i : Instr} (h : Sys2Proof.encode i = none) : Statement i := by
  intro g cs hg
  simp [h] at hg

theorem nop : Statement Instr.nop := of_words rfl rfl

theorem start : Statement Instr.start := of_words rfl rfl

theorem clear : Statement Instr.clear := of_words rfl rfl

theorem rsvd3 : Statement Instr.rsvd3 := of_words rfl rfl

theorem idle : Statement Instr.idle := of_words rfl rfl

theorem pack : Statement Instr.pack := of_words rfl rfl

theorem seedOp : Statement Instr.seedOp := of_words rfl rfl

theorem shift : Statement Instr.shift := of_words rfl rfl

theorem addr : Statement Instr.addr := of_words rfl rfl

theorem placeOp : Statement Instr.placeOp := of_words rfl rfl

theorem done : Statement Instr.done := of_words rfl rfl

theorem err : Statement Instr.err := of_words rfl rfl

theorem reset : Statement Instr.reset := of_words rfl rfl

theorem value (c : Byte) : Statement (Instr.value c) := of_none rfl

theorem check (callLen locLen : Nat) : Statement (Instr.check callLen locLen) := of_none rfl

theorem layout (call : List Byte) : Statement (Instr.layout call) := of_none rfl

theorem packN (buf : Chars6) : Statement (Instr.packN buf) := of_none rfl

theorem packM (loc : Chars4) (p : Int) : Statement (Instr.packM loc p) := of_none rfl

theorem bitsched (n : PackedN) (m : PackedM) (k : Nat) : Statement (Instr.bitsched n m k) := of_none rfl

theorem cestep (b : Bool) : Statement (Instr.cestep b) := of_none rfl

theorem parity (x : Word) : Statement (Instr.parity x) := of_none rfl

theorem ceinit : Statement Instr.ceinit := of_none rfl

theorem rev8 (x : Byte) : Statement (Instr.rev8 x) := of_none rfl

theorem ilinit : Statement Instr.ilinit := of_none rfl

theorem ilnext : Statement Instr.ilnext := of_none rfl

theorem seed : Statement Instr.seed := of_none rfl

theorem place (a : Byte) (p : Bool) : Statement (Instr.place a p) := of_none rfl

theorem encode (call loc : List Byte) (p : Int) : Statement (Instr.encode call loc p) := of_none rfl

end Sys2Proof.Laws.RoundTrip
end

