-- ==== Sys2Proof/Laws/Step.lean ====
section
/-! SUPPORT. What one step can do, phase by phase, and how a run unfolds: the lemmas the statements about `step` rest on. -/

namespace Sys2Proof.Machine

theorem step_of_rst {s : State} (h : s.ports.rst = true) : step s = .next s.resetRegisters.advance := by
  simp [step, State.fetch, h, exec, execReset]

theorem step_of_phase {s : State} (h : s.ports.rst = false) :
    step s = mapNext State.advance (exec (phaseInstr s.ph) s) := by
  simp [step, State.fetch, h]

theorem step_of_wait {s : State} (h : s.ports.rst = false) (hb : s.busy = false) :
    step s = mapNext State.advance (hostCommand s) := by
  rw [step_of_phase h]
  unfold State.busy at hb
  cases hp : s.ph <;> simp_all [busyPhase, phaseInstr, exec, execIdle, execDone, execErr]

theorem step_of_pack {s : State} (h : s.ports.rst = false) (hp : s.ph = .pack) :
    step s = .next s.packFields.advance := by
  simp [step_of_phase h, hp, phaseInstr, exec, execPack]

theorem step_of_seed {s : State} (h : s.ports.rst = false) (hp : s.ph = .seed) :
    step s = .next (s.seedSym.ceInit.ilInit.clearCounts.goto .shift).advance := by
  simp [step_of_phase h, hp, phaseInstr, exec, execSeedOp]

theorem step_of_shift {s : State} (h : s.ports.rst = false) (hp : s.ph = .shift) (hk : s.k.toNat ≤ 80) :
    step s = .next (((s.ceStep ((schedBit s.n s.m s.k.toNat).getD false)).incK).goto .addr).advance := by
  have h0 : s.tookFree 0 = s := by cases s; rfl
  simp [step_of_phase h, hp, phaseInstr, exec, execShift, schedFreeTaken_of_le hk, schedBitOrFree_of_le hk, h0]

theorem step_of_addr_kept {s : State} (h : s.ports.rst = false) (hp : s.ph = .addr) (hk : keeps s.cnt = true) :
    step s = .next ({ s with cnt := s.cnt + 1, addr := rev8Bits s.cnt, ph := .place } : State).advance := by
  simp [step_of_phase h, hp, phaseInstr, exec, execAddr, hk]

theorem step_of_addr_skipped {s : State} (h : s.ports.rst = false) (hp : s.ph = .addr) (hk : keeps s.cnt = false) :
    step s = .next ({ s with cnt := s.cnt + 1, ph := .addr } : State).advance := by
  simp [step_of_phase h, hp, phaseInstr, exec, execAddr, hk]

theorem step_of_place {s : State} (h : s.ports.rst = false) (hp : s.ph = .place) :
    step s = .next (s.placeLatched.incJ.goto s.afterPlace).advance := by
  simp [step_of_phase h, hp, phaseInstr, exec, execPlaceOp]

/-! ### Runs and the host's script -/

theorem run_succ_of_step {s t : State} (n : Nat) (h : step s = .next t) :
    Host.Core.run Sys2Proof.core (n + 1) s = Host.Core.run Sys2Proof.core n t := by
  have hc : Sys2Proof.core.step s = .next t := h
  simp only [Host.Core.run, hc]

theorem run_succ_of_not_next {s : State} (n : Nat) (h : ∀ t, step s ≠ .next t) (t : State) :
    Host.Core.run Sys2Proof.core (n + 1) s ≠ .next t := by
  cases hs : step s with
  | next u => exact absurd hs (h u)
  | fault r =>
    have hc : Sys2Proof.core.step s = .fault r := hs
    simp [Host.Core.run, hc]
  | refused r =>
    have hc : Sys2Proof.core.step s = .refused r := hs
    simp [Host.Core.run, hc]

/-- A run of `a + b` edges is a run of `b` edges from where the first `a` end. -/
theorem run_add {s t : State} (a b : Nat) (h : Host.Core.run Sys2Proof.core a s = .next t) :
    Host.Core.run Sys2Proof.core (a + b) s = Host.Core.run Sys2Proof.core b t := by
  induction a generalizing s with
  | zero =>
    obtain rfl : s = t := Host.Outcome.next.inj h
    rw [Nat.zero_add]
  | succ n ih =>
    rw [Nat.succ_add]
    by_cases hs : ∃ u, step s = .next u
    · obtain ⟨u, hu⟩ := hs
      rw [run_succ_of_step _ hu] at h ⊢
      exact ih h
    · exact absurd h (run_succ_of_not_next n (fun u hu => hs ⟨u, hu⟩) t)

@[simp] theorem State.portsAt_zero (s : State) : s.portsAt 0 = s.ports := rfl

/-- After one edge, every later edge is one nearer. -/
theorem State.portsAt_advance (s : State) (e : Nat) : s.advance.portsAt e = s.portsAt (e + 1) := by
  unfold State.portsAt State.advance
  cases h : s.script with
  | nil => simp
  | cons p rest =>
    cases e with
    | zero => simp
    | succ e =>
      cases rest with
      | nil => simp
      | cons q r =>
        simp [List.getLast?_eq_some_getLast]

/-- Only the ports and the script say what the host drives. -/
theorem State.portsAt_congr {s t : State} (hp : t.ports = s.ports) (hs : t.script = s.script) (e : Nat) :
    t.portsAt e = s.portsAt e := by
  unfold State.portsAt
  rw [hp, hs]

end Sys2Proof.Machine
end

