-- ==== Sys2Proof/Tests/Slice0.lean ====
section
/-! SUPPORT. Small tests: the check of well-formedness, decoded words, one step or one function each, against the vectors V<n> of
95_test_vectors.md; and a witness for the hypotheses of every statement that has some. -/

namespace Sys2Proof.Tests

open Sys2Proof.Machine

/-- The next state, if there is one, meets `f`. -/
def nextIs (o : Host.Outcome State Fault Refusal) (f : State → Bool) : Bool :=
  match o with
  | .next t => f t
  | .fault _ => false
  | .refused _ => false

/-- The operation stops with the fault of the model. -/
def faults (o : Host.Outcome State Fault Refusal) : Bool :=
  match o with
  | .next _ => false
  | .fault _ => true
  | .refused _ => false

/-- The operation is refused as a draw too many. -/
def refusesDraw (o : Host.Outcome State Fault Refusal) : Bool :=
  match o with
  | .refused .drawsExhausted => true
  | .refused (.notModelled _) => false
  | .next _ => false
  | .fault _ => false

/-- A waiting state with the ports of `START "AA0NT", "EM18", 20` (V36 row e). -/
def starting : State :=
  { State.reset with ports := startPorts [65, 65, 48, 78, 84] [69, 77, 49, 56] 20 }

/-- A state in phase `p`. -/
def inPhase (p : Phase) : State := { State.reset with ph := p }

/-! ### Well-formedness -/

theorem test_wf_layout_empty_refused : (Instr.layout []).wf = false := by decide
theorem test_wf_bitsched_81_refused : (Instr.bitsched 0 0 81).wf = false := by decide
theorem test_wf_place_162_refused : (Instr.place 162 true).wf = false := by decide
theorem test_wf_place_161 : (Instr.place 161 true).wf = true := by decide

/-! ### Decoded words, written from R91, R93, R108 -/

theorem test_decode_nop : decode .command [0b00000000] = .ok .nop := by rfl
theorem test_decode_start : decode .command [0b00000001] = .ok .start := by rfl
theorem test_decode_clear : decode .command [0b00000010] = .ok .clear := by rfl
theorem test_decode_rsvd3 : decode .command [0b00000011] = .ok .rsvd3 := by rfl
theorem test_decode_idle : decode .phase [0b00000000] = .ok .idle := by rfl
theorem test_decode_pack : decode .phase [0b00000001] = .ok .pack := by rfl
theorem test_decode_seed : decode .phase [0b00000010] = .ok .seedOp := by rfl
theorem test_decode_shift : decode .phase [0b00000011] = .ok .shift := by rfl
theorem test_decode_addr : decode .phase [0b00000100] = .ok .addr := by rfl
theorem test_decode_place : decode .phase [0b00000101] = .ok .placeOp := by rfl
theorem test_decode_done : decode .phase [0b00000110] = .ok .done := by rfl
theorem test_decode_err : decode .phase [0b00000111] = .ok .err := by rfl
theorem test_decode_reset : decode .rst [0b00000001] = .ok .reset := by rfl
theorem test_decode_rst_low : decode .rst [0b00000000] = .error .rstLow := by rfl
theorem test_decode_no_byte : decode .phase [] = .error .noByte := by rfl
theorem test_decode_two_bytes : decode .command [0, 0] = .error .extraByte := by rfl
theorem test_table_word_shift : decodeTableWord 8 3 = some .shift := by decide
theorem test_table_word_start : decodeTableWord 2 1 = some .start := by decide

/-! ### The field packer -/

/-- V13 -/
theorem test_value : [48, 57, 65, 90, 97, 122, 32, 78, 110, 45, 47, 58, 64, 91, 96, 123, 9, 0, 128, 255].map charValue
    = [0, 9, 10, 35, 10, 35, 36, 23, 23, 0, 0, 0, 0, 0, 0, 0, 0, 0, 0, 0] := by decide
/-- V14 -/
theorem test_check : checkLens 0 4 = false ∧ checkLens 5 3 = false ∧ checkLens 5 5 = false ∧ checkLens 1 4 = true := by
  decide
/-- V12, branches A, B, C -/
theorem test_layout_branches : layoutChars 5 ⟨75, 49, 65, 66, 67, 0⟩ = ⟨32, 75, 49, 65, 66, 67⟩ ∧
    layoutChars 5 ⟨65, 65, 48, 78, 84, 0⟩ = ⟨65, 65, 48, 78, 84, 32⟩ ∧
    layoutChars 6 ⟨65, 66, 67, 68, 69, 70⟩ = ⟨32, 32, 32, 32, 32, 32⟩ := by decide
/-- V12: `"K1ABCD"` drops its last character, `"W1AW"` is in branch A -/
theorem test_layout_truncates : layoutChars 6 ⟨75, 49, 65, 66, 67, 68⟩ = ⟨32, 75, 49, 65, 66, 67⟩ ∧
    layoutChars 4 ⟨87, 49, 65, 87, 0, 0⟩ = ⟨32, 87, 49, 65, 87, 32⟩ := by decide
/-- V15: `"AA0NT "`, `"      "`, and the negative `"-?0000"` -/
theorem test_packN : packNField ⟨65, 65, 48, 78, 84, 32⟩ = 0x45767FC ∧ packNField ⟨32, 32, 32, 32, 32, 32⟩ = 0xFAB9FE6 ∧
    packNField ⟨45, 63, 48, 48, 48, 48⟩ = 0xFFFE26E := by decide
/-- V16: `"EM18"` at 20 and -128, the negative `"ZZ99"`, the lower-case `"em18"` -/
theorem test_packM : packMField ⟨69, 77, 49, 56⟩ 20 = 0x30C454 ∧ packMField ⟨69, 77, 49, 56⟩ (-128) = 0x30C3C0 ∧
    packMField ⟨90, 90, 57, 57⟩ 0 = 0x2461C0 ∧ packMField ⟨101, 109, 49, 56⟩ 20 = 0xE454 := by decide
/-- V36 row n -/
theorem test_pack_operation : nextIs (exec .pack { inPhase .pack with
      callLen := 5, call := ⟨65, 65, 48, 78, 84, 0⟩, loc := ⟨69, 77, 49, 56⟩, pwr := 20 })
    (fun t => t.n == 0x45767FC && t.m == 0x30C454 && t.ph == .seed && t.buf == ⟨65, 65, 48, 78, 84, 32⟩) = true := by
  decide

/-! ### The encoder -/

/-- V17 -/
theorem test_parity : parityBit 3 = false ∧ parityBit 0x80000000 = true ∧ parityBit 0xE0401041 = true := by decide
/-- V18 -/
theorem test_bitsched : [0, 1, 27, 28, 30, 49, 50, 80].map (fun k => schedBit 0x45767FC 0x30C454 k)
    = [some false, some true, some false, some true, some false, some false, some false, some false] := by decide
/-- V19 -/
theorem test_cestep : nextIs (exec (.cestep true) { State.reset with reg := 0x8A })
    (fun t => t.reg == 0x115 && t.p0 && !t.p1) = true := by decide
/-- V19: the top bit is lost -/
theorem test_cestep_top : nextIs (exec (.cestep false) { State.reset with reg := 0xFFFFFFFF })
    (fun t => t.reg == 0xFFFFFFFE && !t.p0 && !t.p1) = true := by decide
/-- V36 row p -/
theorem test_shift_operation : nextIs (exec .shift { inPhase .shift with k := 5, reg := 8, n := 0x45767FC })
    (fun t => t.reg == 0x11 && !t.p0 && t.p1 && t.k == 6 && t.ph == .addr) = true := by decide
/-- The first eight pairs of R159 -/
theorem test_stream_begins : (convFrom 0x45767FC 0x30C454 8 0 0)
    = [false, false, true, true, false, true, false, true, false, false, false, true, false, true, false, true] := by decide

/-! ### The interleaver -/

/-- V21 -/
theorem test_rev8 : [1, 2, 3, 5, 69, 133, 254, 255, 15].map rev8Bits = [128, 64, 192, 160, 162, 161, 127, 255, 240] := by
  decide
/-- V22, draws 3, 10 and 161 -/
theorem test_draws : draw 3 = some (32, 5) ∧ draw 13 = some (112, 15) ∧ draw 253 = some (127, 255) := by decide
/-- V22, the 163rd draw -/
theorem test_draw_refused : refusesDraw (exec .ilnext { State.reset with cnt := 255 }) = true := by decide
/-- V36 row q -/
theorem test_addr_skips : nextIs (exec .addr { inPhase .addr with cnt := 3, addr := 64 })
    (fun t => t.cnt == 4 && t.addr == 64 && t.ph == .addr) = true := by decide
/-- V36 row r -/
theorem test_addr_keeps : nextIs (exec .addr { inPhase .addr with cnt := 4 })
    (fun t => t.cnt == 5 && t.addr == 32 && t.ph == .place) = true := by decide

/-! ### The assembler -/

/-- V23 -/
theorem test_place : nextIs (exec (.place 161 true) { State.reset with sym := [(161, 1)] })
    (fun t => t.sym == [(161, 3)]) = true := by decide
theorem test_place_outside : faults (exec (.place 162 true) State.reset) = true := by decide
/-- V36 row s -/
theorem test_place_operation : nextIs (exec .placeOp { inPhase .place with j := 2, p0 := true, addr := 64, k := 2 })
    (fun t => t.sym.read 64 == 2 && t.j == 3 && t.ph == .addr) = true := by decide
/-- V36 row u -/
theorem test_place_last : nextIs (exec .placeOp { inPhase .place with j := 161, addr := 127, k := 81 })
    (fun t => t.j == 162 && t.ph == .done) = true := by decide
/-- R210: the step is total, so `PLACE` goes on where `ADDR` names no element -/
theorem test_place_beyond : nextIs (step { inPhase .place with j := 1, k := 3, addr := 162 })
    (fun t => t.j == 2 && t.ph == .shift && t.addr == 162) = true := by decide
/-- V36 row o -/
theorem test_seed_operation : nextIs (exec .seedOp { inPhase .seed with reg := 5, cnt := 255, k := 81, j := 162 })
    (fun t => t.reg == 0 && t.cnt == 0 && t.k == 0 && t.j == 0 && t.ph == .shift) = true := by decide
/-- R192's example under the candidate of G1: `SYM[0..7]` = 1, 1, 0, 0, 0, 0, 0, 0 -/
theorem test_candidate_begins : (List.range 14).map (syncSym Config.candidateSync)
    = [1, 1, 0, 0, 0, 0, 0, 0, 1, 0, 0, 0, 1, 1] := by decide
/-- V3 -/
theorem test_encode_empty : encodeWith 0 0 [] [69, 77, 49, 56] 20 = none := by decide

/-- V30's data bits: under the sync vector of zeros (V24) the reference scenario gives twice them, element `a` being bit
`a` of the literal -/
theorem test_encode_reference : encodeWith 0 0 [65, 65, 48, 78, 84] [69, 77, 49, 56] 20 =
    some ((List.range 162).map fun a => if (0x2074F229818A4BF5F4D7C9D1748749CC784740586#162).getLsbD a then 2 else 0) := by
  decide +kernel

/-! ### The host interface -/

/-- V36 row e -/
theorem test_start : nextIs (exec .start starting) (fun t => t.ph == .pack && t.callLen == 5 && t.pwr == 20 &&
    t.loc == ⟨69, 77, 49, 56⟩ && t.errc == .none) = true := by decide
/-- V36 row g -/
theorem test_start_fails : nextIs (exec .start { starting with ph := .done, ports := { starting.ports with locLen := 5 } })
    (fun t => t.ph == .err && t.errCode == 1 && t.rdData 0 == 0 && t.callLen == 0) = true := by decide
/-- V36 row h -/
theorem test_clear : nextIs (exec .clear { inPhase .err with errc := .invalidArgument })
    (fun t => t.ph == .idle && t.errCode == 0) = true := by decide
/-- V36 row l: a START while busy is not looked at -/
theorem test_step_busy : nextIs (step { starting with ph := .shift }) (fun t => t.ph == .addr && t.callLen == 0) = true := by
  decide
/-- V36 row w and P4 edge 102: `rst` has priority over a START -/
theorem test_step_reset : nextIs (step { starting with ph := .shift, ports := { starting.ports with rst := true } })
    (fun t => t.ph == .idle && t.errCode == 0 && t.rdData 5 == 0) = true := by decide
/-- V36 row k and V37 -/
theorem test_read_port : nextIs (step { inPhase .done with sym := [(1, 3)] })
    (fun t => t.rdData 1 == 3 && t.rdData 162 == 0 && t.done) = true := by decide
/-- V36 row c -/
theorem test_reserved : nextIs (step { State.reset with ports := commandPorts 3 }) (fun t => t.ph == .idle) = true := by
  decide
/-- The placed word runs. -/
theorem test_fetch_word : nextIs (step (State.reset.withFetchWord 8 4)) (fun t => t.ph == .place && t.cnt == 1) = true := by
  decide

/-! ### Witnesses: states and operands that meet the hypotheses of a statement -/

theorem witness_StepRunsDecodedOperation :
    (∃ s : State, s.ports.rst = true) ∧ (∃ s : State, s.ports.rst = false ∧ s.busy = true) ∧
    (∃ s : State, s.ports.rst = false ∧ s.busy = false ∧ s.script = []) ∧ (∃ (s : State) (p : Ports), s.script = [p]) :=
  ⟨⟨{ State.reset with ports := resetPorts }, rfl⟩, ⟨inPhase .shift, by decide⟩, ⟨State.reset, by decide⟩,
    ⟨{ State.reset with script := [resetPorts] }, resetPorts, rfl⟩⟩

theorem witness_DecodeOfEncode : (∃ i f bs, Sys2Proof.encode i = some (f, bs)) ∧ (∃ i, Sys2Proof.encode i = none) :=
  ⟨⟨.shift, .phase, [3], by decide⟩, ⟨.ceinit, rfl⟩⟩

theorem witness_PlacedWordRuns : decodeTableWord 8 5 = some .placeOp ∧ decodeTableWord 2 2 = some .clear ∧
    decodeTableWord 1 1 = some .reset := by decide

theorem witness_ValueOfEveryCode : ∃ a b c d e : Byte, (48 ≤ a.toNat ∧ a.toNat ≤ 57) ∧ (65 ≤ b.toNat ∧ b.toNat ≤ 90) ∧
    (97 ≤ c.toNat ∧ c.toNat ≤ 122) ∧ d.toNat = 32 ∧ ¬ (48 ≤ e.toNat ∧ e.toNat ≤ 57) ∧ ¬ (65 ≤ e.toNat ∧ e.toNat ≤ 90) ∧
    ¬ (97 ≤ e.toNat ∧ e.toNat ≤ 122) ∧ e.toNat ≠ 32 := ⟨57, 90, 122, 32, 58, by decide⟩

theorem witness_CheckOfLengths : (∃ a b : Nat, a = 0 ∨ b ≠ 4) ∧ (∃ a b : Nat, a ≠ 0 ∧ b = 4) :=
  ⟨⟨0, 4, .inl rfl⟩, ⟨1, 4, by decide⟩⟩

/-- `"K1"` is in branch A, `"AB1"` in branch B, `"K"` in branch C (R127). -/
theorem witness_LayoutBranches :
    (∃ c : List Byte, c ≠ [] ∧ 2 ≤ c.length ∧ isDigit (c.getD 1 0) = true) ∧
    (∃ c : List Byte, c ≠ [] ∧ ¬ (2 ≤ c.length ∧ isDigit (c.getD 1 0) = true) ∧ 3 ≤ c.length ∧ isDigit (c.getD 2 0) = true) ∧
    (∃ c : List Byte, c ≠ [] ∧ ¬ (2 ≤ c.length ∧ isDigit (c.getD 1 0) = true) ∧
      ¬ (3 ≤ c.length ∧ isDigit (c.getD 2 0) = true)) :=
  ⟨⟨[75, 49], by decide⟩, ⟨[65, 66, 49], by decide⟩, ⟨[75], by decide⟩⟩

/-- `"RA90"` at 0 and `"AR09"` at 60, the ends of R131's well-formed range. -/
theorem witness_PackMRange : ∃ (l : Chars4) (p : Int), -128 ≤ p ∧ p ≤ 127 ∧ 65 ≤ l.c0.toNat ∧ l.c0.toNat ≤ 82 ∧
    65 ≤ l.c1.toNat ∧ l.c1.toNat ≤ 82 ∧ isDigit l.c2 = true ∧ isDigit l.c3 = true ∧ 0 ≤ p ∧ p ≤ 60 :=
  ⟨⟨82, 65, 57, 48⟩, 60, by decide⟩

theorem witness_BitSchedule : ∃ a b c d e : Nat, (a ≤ 80 ∧ a ≤ 27) ∧ (b ≤ 80 ∧ 28 ≤ b ∧ b ≤ 49) ∧
    (c ≤ 80 ∧ 28 ≤ c ∧ c ≤ 49) ∧ (d ≤ 80 ∧ 50 ≤ d) ∧ (e ≤ 80 ∧ 50 ≤ e) := ⟨27, 28, 49, 50, 80, by decide⟩

theorem witness_OutsideScheduleRuns : (∃ k : Nat, 80 < k) ∧ (∃ s : State, 80 < s.k.toNat ∧ s.k.toNat < 127) ∧
    (∃ s : State, s.k.toNat = 127) :=
  ⟨⟨81, by decide⟩, ⟨{ State.reset with k := 81 }, by decide⟩, ⟨{ State.reset with k := 127 }, by decide⟩⟩

theorem witness_StreamClosedForm : ∃ k i : Nat, k ≤ 80 ∧ i < 32 ∧ i ≤ k := ⟨80, 31, by decide⟩

theorem witness_ShiftOperation : ∃ a b c : State, a.k.toNat = 27 ∧ b.k.toNat = 49 ∧ c.k.toNat = 80 :=
  ⟨{ State.reset with k := 27 }, { State.reset with k := 49 }, { State.reset with k := 80 }, by decide⟩

theorem witness_OneDraw : (∃ s : State, s.cnt ≠ 255 ∧ (rev8Bits s.cnt).toNat ≤ 161) ∧
    (∃ s : State, s.cnt ≠ 255 ∧ 161 < (rev8Bits s.cnt).toNat) :=
  ⟨⟨{ State.reset with cnt := 254 }, by decide⟩, ⟨{ State.reset with cnt := 253 }, by decide⟩⟩

theorem witness_DrawAfterTheLastRefused : ∃ s : State, s.cnt = 255 := ⟨{ State.reset with cnt := 255 }, rfl⟩

theorem witness_AddressesAreAPermutation : ∃ j a : Nat, j < 162 ∧ a ≤ 161 := ⟨161, 161, by decide⟩

theorem witness_AddrOperation : (∃ s : State, (rev8Bits s.cnt).toNat ≤ 161) ∧ (∃ s : State, 161 < (rev8Bits s.cnt).toNat) :=
  ⟨⟨{ State.reset with cnt := 133 }, by decide⟩, ⟨{ State.reset with cnt := 69 }, by decide⟩⟩

theorem witness_PlaceAddsParity : ∃ (s : State) (a : Byte) (p : Bool), s.sym.wf = true ∧ a.toNat ≤ 161 ∧
    (s.sym.read a.toNat).toNat + 2 * p.toNat ≤ 3 := ⟨{ State.reset with sym := [(161, 1)] }, 161, true, by decide⟩

theorem witness_PlaceOutsideTheRules : (∃ (s : State) (a : Byte) (p : Bool), a.toNat ≤ 161 ∧
    3 < (s.sym.read a.toNat).toNat + 2 * p.toNat) ∧ (∃ a : Byte, 161 < a.toNat) :=
  ⟨⟨{ State.reset with sym := [(0, 2)] }, 0, true, by decide⟩, ⟨162, by decide⟩⟩

theorem witness_PlaceOperation : ∃ s : State, s.sym.wf = true ∧ s.addr.toNat ≤ 161 ∧ s.j.toNat ≤ 161 ∧
    (s.sym.read s.addr.toNat).toNat + 2 * (if s.j.toNat % 2 = 0 then s.p0 else s.p1).toNat ≤ 3 :=
  ⟨{ inPhase .place with addr := 161, j := 161, p1 := true, k := 81, sym := [(161, 1)] }, by decide⟩

theorem witness_PlaceCompletesInEveryState : (∃ s : State, s.addr.toNat ≤ 161 ∧ s.j.toNat < 255) ∧
    (∃ s : State, 161 < s.addr.toNat) :=
  ⟨⟨{ State.reset with addr := 161, j := 254 }, by decide⟩, ⟨{ State.reset with addr := 162 }, by decide⟩⟩

theorem witness_EncodeRejects : ∃ call loc : List Byte, call = [] ∨ loc.length ≠ 4 := ⟨[], [], .inl rfl⟩

theorem witness_EncodeClosedForm : ∃ (call loc : List Byte) (a : Nat), call ≠ [] ∧ loc.length = 4 ∧ a ≤ 161 :=
  ⟨[75], [70, 78, 50, 48], 161, by decide⟩

theorem witness_StartOperation : ∃ s : State, s.busy = false ∧ s.ports.callLen.toNat ≠ 0 ∧ s.ports.locLen.toNat = 4 :=
  ⟨starting, by decide⟩

theorem witness_FailingStartOutputs : ∃ s : State, s.busy = false ∧ (s.ports.callLen.toNat = 0 ∨ s.ports.locLen.toNat ≠ 4) :=
  ⟨inPhase .done, by decide⟩

theorem witness_ClearOperation : (∃ s : State, s.busy = false) ∧ (∃ s : State, s.busy = true) :=
  ⟨⟨inPhase .err, by decide⟩, ⟨inPhase .pack, by decide⟩⟩

theorem witness_BusyIgnoresPorts : ∃ (s : State) (q : Ports), s.busy = true ∧ s.ports.rst = false ∧ q.rst = false ∧
    s.ports ≠ q := ⟨inPhase .shift, commandPorts 2, by decide⟩

theorem witness_WaitPhaseOperations :
    (∃ s : State, s.busy = false ∧ s.ports.cmd = 0) ∧ (∃ s : State, s.busy = false ∧ s.ports.cmd = 3) ∧
    (∃ s : State, s.busy = false ∧ s.ports.cmd = 2) ∧
    (∃ s : State, s.busy = false ∧ s.ports.cmd = 1 ∧ s.ports.callLen.toNat ≠ 0 ∧ s.ports.locLen.toNat = 4) ∧
    (∃ s : State, s.busy = false ∧ s.ports.cmd = 1 ∧ (s.ports.callLen.toNat = 0 ∨ s.ports.locLen.toNat ≠ 4)) :=
  ⟨⟨State.reset, by decide⟩, ⟨{ State.reset with ports := commandPorts 3 }, by decide⟩,
    ⟨{ State.reset with ports := commandPorts 2 }, by decide⟩, ⟨starting, by decide⟩,
    ⟨{ State.reset with ports := commandPorts 1 }, by decide⟩⟩

theorem witness_ResetOperation : ∃ s : State, s.busy = true ∧ s.ports.rst = true :=
  ⟨{ inPhase .place with ports := resetPorts }, by decide⟩

theorem witness_PhaseTransitions : ∃ s t : State, step s = .next t ∧ s.ports.rst = false ∧ s.ph = .place ∧
    s.j.toNat % 2 = 1 ∧ s.k.toNat = 81 :=
  ⟨{ inPhase .place with j := 161, addr := 127, k := 81 }, { inPhase .done with j := 162, addr := 127, k := 81 },
    by rfl, by decide⟩

theorem witness_NoOtherErrorCode : ∃ (i : Instr) (s t : State), exec i s = .next t ∧ t.errc ≠ s.errc :=
  ⟨.start, State.reset, State.reset.raiseInvalidArgument, by rfl, by decide⟩

theorem witness_RegisterWriters : ∃ s t : State, s.ports.rst = false ∧ step s = .next t ∧ t.cnt ≠ s.cnt :=
  ⟨inPhase .addr, { inPhase .place with cnt := 1 }, rfl, by rfl, by decide⟩

theorem witness_EndOfRunIsStable : (∃ s : State, EndOfRun s ∧ s.ports.rst = false ∧ s.ports.cmd = 0) ∧
    (∃ s : State, EndOfRun s ∧ s.ports.rst = false ∧ s.ports.cmd = 3) :=
  ⟨⟨inPhase .done, .inl rfl, by decide⟩, ⟨{ inPhase .err with ports := commandPorts 3 }, .inr rfl, by decide⟩⟩

theorem witness_OperationsKeepMemoryForm : ∃ (i : Instr) (s t : State), s.sym.wf = true ∧ exec i s = .next t ∧
    t.sym ≠ s.sym :=
  ⟨.place 161 true, State.reset, { State.reset with sym := [(161, 2)] }, rfl, by rfl, by decide⟩

/-- The invariant holds in the middle of an encode: the first SHIFT over an empty sync vector. -/
theorem witness_StepKeepsInvariant : Inv (inPhase .shift) ∧
    step (inPhase .shift) = .next { inPhase .addr with k := 1 } :=
  ⟨⟨rfl, rfl, nofun, ⟨by decide, rfl, rfl⟩, fun a _ _ => Nat.zero_le 1⟩, by rfl⟩

/-- The invariant at a PLACE: the first parity bit, at address 0. -/
theorem witness_StepCompletesUnderInvariant :
    ∃ s : State, Inv s ∧ s.ports.rst = false ∧ s.ph = .place :=
  ⟨{ inPhase .place with k := 1, cnt := 1 },
    ⟨rfl, rfl, nofun, ⟨⟨by decide, .inl rfl⟩, by decide, by decide, by decide, by decide⟩, fun _ _ _ => Nat.zero_le 1⟩,
    rfl, rfl⟩

theorem witness_EncodeRunEndsInDone :
    (∃ (s : State) (call loc : List Byte) (p : Int), s.busy = false ∧ s.ports.rst = false ∧ s.ports.cmd = 1 ∧
      Presents s.ports call loc p ∧ call ≠ [] ∧ loc.length = 4 ∧
      ∃ d, 1 ≤ d ∧ (∀ e, 1 ≤ e → e ≤ 500 + d → (s.portsAt e).rst = false) ∧
        (∀ e, 501 ≤ e → e ≤ 500 + d → (s.portsAt e).cmd = 0 ∨ (s.portsAt e).cmd = 3)) ∧
    (∃ (s : State) (call loc : List Byte) (p : Int), s.busy = false ∧ s.ports.rst = false ∧ s.ports.cmd = 1 ∧
      Presents s.ports call loc p ∧ (call = [] ∨ loc.length ≠ 4)) := by
  refine ⟨⟨{ starting with script := [commandPorts 0] }, [65, 65, 48, 78, 84], [69, 77, 49, 56], 20, rfl, rfl, rfl,
    ⟨rfl, by decide, rfl, by decide, by decide⟩, by decide, rfl, 1, by decide, ?_, ?_⟩,
    ⟨{ starting with ports := startPorts [] [69, 77, 49, 56] 20 }, [], [69, 77, 49, 56], 20, rfl, rfl, rfl,
      ⟨rfl, by decide, rfl, by decide, by decide⟩, .inl rfl⟩⟩
  all_goals
    intro e h _
    obtain ⟨e, rfl⟩ : ∃ f, e = f + 1 := ⟨e - 1, by omega⟩
  · simp [State.portsAt, commandPorts, Ports.quiet]
  · simp [State.portsAt, commandPorts, Ports.quiet]

theorem witness_EncodeThenReadAll : ∃ (s : State) (call loc : List Byte) (p : Int), s.busy = false ∧ call ≠ [] ∧
    loc.length = 4 ∧ -128 ≤ p ∧ p ≤ 127 := ⟨inPhase .err, [75], [70, 78, 50, 48], -128, by decide⟩

end Sys2Proof.Tests
end

section
/-! PROOFS. The invariant of the sequencer, phase by phase (10_state.md R32 to R39, 20_memory.md R66, 42_interleaver.md R177,
R178): what it says in each phase, what the interleaver's counter does, and that every edge keeps it. -/

namespace Sys2Proof.Machine

/-! ### The interleaver's counter -/

/-- The counter 255 reverses to 255, which is no address (R178). -/
theorem keeps_255 : keeps 255 = false := by decide

/-- All 162 draws lie below the counter 255 (R177, R178). -/
theorem keptBelow_255 : keptBelow 255 = 162 := by decide +kernel

theorem ne_255_of_keeps {c : Byte} (h : keeps c = true) : c ≠ 255 := by
  rintro rfl
  exact Bool.false_ne_true (keeps_255.symm.trans h)

theorem ne_255_of_keptBelow_lt {c : Byte} (h : keptBelow c.toNat < 162) : c ≠ 255 := by
  rintro rfl
  exact absurd keptBelow_255 h.ne

theorem toNat_add_one_of_ne_255 {c : Byte} (h : c ≠ 255) : (c + 1).toNat = c.toNat + 1 := by
  bv_omega

/-- A counter that does not wrap counts one more draw exactly if it passes a kept value. -/
theorem keptBelow_toNat_add_one {c : Byte} (h : c ≠ 255) :
    keptBelow (c + 1).toNat = keptBelow c.toNat + (if keeps c then 1 else 0) := by
  rw [toNat_add_one_of_ne_255 h, keptBelow_succ, BitVec.ofNat_toNat, BitVec.setWidth_eq]

/-! ### The elements not placed yet -/

/-- Every element whose address none of the counter values below `c` gives is 0 or 1. -/
def UnplacedBelow (c : Nat) (m : Memory) : Prop :=
  ∀ a, a ≤ Config.addrMax → ¬ DrawnBelow c a → (m.read a).toNat ≤ 1

theorem drawnBelow_mono {c d a : Nat} (h : c ≤ d) : DrawnBelow c a → DrawnBelow d a
  | ⟨x, hx, ha⟩ => ⟨x, by omega, ha⟩

/-- A counter value just passed has drawn its reversal. -/
theorem drawnBelow_rev8Bits {c : Nat} {x : Byte} (h : x.toNat < c) : DrawnBelow c (rev8Bits x).toNat :=
  ⟨x.toNat, h, by rw [BitVec.ofNat_toNat, BitVec.setWidth_eq]⟩

theorem UnplacedBelow.mono {c d : Nat} {m : Memory} (h : UnplacedBelow c m) (hcd : c ≤ d) : UnplacedBelow d m :=
  fun a ha hd => h a ha fun hc => hd (drawnBelow_mono hcd hc)

theorem toNat_syncSym_le (sync : BitVec 162) (a : Nat) : (syncSym sync a).toNat ≤ 1 := by
  unfold syncSym
  cases sync.getLsbD a <;> decide

/-- The seeded buffer holds sync bits only (R192). -/
theorem unplacedBelow_seedMemory (sync : BitVec 162) (c : Nat) : UnplacedBelow c (seedMemory sync) := by
  intro a ha _
  rw [Memory.read_seedMemory, if_pos ha]
  exact toNat_syncSym_le sync a

/-- Placing into the address of a passed counter value leaves every unplaced element alone. -/
theorem UnplacedBelow.addAt {c d : Nat} {m : Memory} {x : Byte} (h : UnplacedBelow c m) (hcd : c ≤ d)
    (hx : x.toNat < d) (other : Sym) (p : Bool) : UnplacedBelow d (m.addAt other (rev8Bits x).toNat p) := by
  intro a ha hd
  have hne : a ≠ (rev8Bits x).toNat := by
    rintro rfl
    exact hd (drawnBelow_rev8Bits hx)
  rw [Memory.addAt, Memory.read_write_of_ne m hne]
  exact h.mono hcd a ha hd

/-! ### What the invariant says in each phase -/

/-- The phases in which the counters of an encode run. -/
def countingPhase : Phase → Bool
  | .shift | .addr | .place => true
  | .idle | .pack | .seed | .done | .err => false

theorem Inv.errc_eq_none {s : State} {p : Phase} (h : Inv s) (hp : s.ph = p) (hne : p ≠ .err) : s.errc = .none := by
  rw [h.errc, if_neg (hp ▸ hne)]

theorem errInv_of_ne_err {s : State} (hp : s.ph ≠ .err) (h : s.errc = .none) : ErrInv s := by
  rw [ErrInv, if_neg hp, h]

theorem latchInv_of_ne_pack {s : State} (hp : s.ph ≠ .pack) : LatchInv s := fun h => absurd h hp

theorem countInv_of_not_counting {s : State} (hp : countingPhase s.ph = false) : CountInv s := by
  unfold CountInv
  cases h : s.ph <;> simp_all [countingPhase]

theorem symInv_of_not_counting {s : State} (hp : countingPhase s.ph = false) : SymInv s := by
  unfold SymInv
  cases h : s.ph <;> simp_all [countingPhase]

theorem countInv_shift {s : State} (hp : s.ph = .shift) :
    CountInv s ↔ s.k.toNat < Config.steps ∧ s.j.toNat = 2 * s.k.toNat ∧ keptBelow s.cnt.toNat = s.j.toNat := by
  simp [CountInv, hp]

theorem countInv_addr {s : State} (hp : s.ph = .addr) :
    CountInv s ↔ PlacingCounts s ∧ keptBelow s.cnt.toNat = s.j.toNat := by
  simp [CountInv, hp]

theorem countInv_place {s : State} (hp : s.ph = .place) :
    CountInv s ↔ PlacingCounts s ∧ keptBelow s.cnt.toNat = s.j.toNat + 1 ∧ s.cnt ≠ 0 ∧
      s.addr = rev8Bits (s.cnt - 1) ∧ s.addr.toNat ≤ Config.addrMax := by
  simp [CountInv, hp]

theorem symInv_shift {s : State} (hp : s.ph = .shift) : SymInv s ↔ UnplacedBelow s.cnt.toNat s.sym := by
  simp [SymInv, UnplacedBelow, hp]

theorem symInv_addr {s : State} (hp : s.ph = .addr) : SymInv s ↔ UnplacedBelow s.cnt.toNat s.sym := by
  simp [SymInv, UnplacedBelow, hp]

theorem symInv_place {s : State} (hp : s.ph = .place) : SymInv s ↔ UnplacedBelow (s.cnt.toNat - 1) s.sym := by
  simp [SymInv, UnplacedBelow, hp]

/-- The host's next port values are no part of the invariant. -/
theorem Inv.advance {s : State} (h : Inv s) : Inv s.advance :=
  ⟨h.sym_wf, h.errc, h.latch, h.counts, h.unplaced⟩

/-- At most 161 draws are made before the one whose parity bit is next (R35). -/
theorem PlacingCounts.j_lt {s : State} (h : PlacingCounts s) : s.j.toNat < 162 := by
  obtain ⟨hk, hj⟩ := h
  replace hk : s.k.toNat ≤ 81 := hk
  omega

/-- Outside SHIFT, ADDR and PLACE nothing is asked of the counters and the elements. -/
theorem inv_of_not_counting {s : State} (hp : countingPhase s.ph = false) (hw : s.sym.wf = true) (he : ErrInv s)
    (hl : LatchInv s) : Inv s :=
  ⟨hw, he, hl, countInv_of_not_counting hp, symInv_of_not_counting hp⟩

/-- Inside them nothing is asked of the operands, and there is no error. -/
theorem inv_of_counting {s : State} (hp : countingPhase s.ph = true) (hw : s.sym.wf = true) (he : s.errc = .none)
    (hc : CountInv s) (hu : SymInv s) : Inv s where
  sym_wf := hw
  errc := errInv_of_ne_err (fun h => by simp [h, countingPhase] at hp) he
  latch := latchInv_of_ne_pack (fun h => by simp [h, countingPhase] at hp)
  counts := hc
  unplaced := hu

/-! ### Each edge keeps the invariant -/

theorem inv_resetRegisters (s : State) : Inv s.resetRegisters :=
  inv_of_not_counting rfl s.wf_freeMemory rfl nofun

theorem inv_clearToIdle {s : State} (h : Inv s) : Inv s.clearToIdle :=
  inv_of_not_counting rfl h.sym_wf rfl nofun

theorem inv_raiseInvalidArgument {s : State} (h : Inv s) : Inv s.raiseInvalidArgument :=
  inv_of_not_counting rfl h.sym_wf rfl nofun

theorem inv_latch {s : State} (h : Inv s) (hlen : s.ports.callLen.toNat ≠ 0) : Inv s.latch :=
  inv_of_not_counting rfl h.sym_wf rfl fun _ h0 => hlen (congrArg BitVec.toNat h0)

/-- START latches only what passed the check, so an encode never packs an empty callsign (R212). -/
theorem inv_of_startAccepted {s u : State} (h : Inv s) (hu : startAccepted s = .next u) : Inv u := by
  rcases startAccepted_cases s with ⟨hlen, -, e⟩ | ⟨-, e⟩ <;> obtain rfl := Host.Outcome.next.inj (e.symm.trans hu)
  · exact inv_latch h hlen
  · exact inv_raiseInvalidArgument h

theorem inv_of_hostCommand {s u : State} (h : Inv s) (hu : hostCommand s = .next u) : Inv u := by
  unfold hostCommand at hu
  split at hu
  · exact Host.Outcome.next.inj hu ▸ h
  · cases hc : decodeCommand s.ports.cmd <;> simp only [hc] at hu
    case nop => exact Host.Outcome.next.inj hu ▸ h
    case start => exact inv_of_startAccepted h hu
    case clear => exact Host.Outcome.next.inj hu ▸ inv_clearToIdle h
    case rsvd3 => exact Host.Outcome.next.inj hu ▸ h

theorem inv_packFields {s : State} (h : Inv s) (hp : s.ph = .pack) : Inv s.packFields :=
  inv_of_not_counting rfl h.sym_wf (errInv_of_ne_err nofun (h.errc_eq_none hp nofun)) nofun

/-- SEED starts the counts: no step, no draw, every element its sync bit (R219). -/
theorem inv_seed {s : State} (h : Inv s) (hp : s.ph = .seed) :
    Inv (s.seedSym.ceInit.ilInit.clearCounts.goto .shift) :=
  inv_of_counting rfl (Memory.wf_seedMemory _) (h.errc_eq_none hp nofun)
    ((countInv_shift rfl).2 ⟨Nat.zero_lt_succ 80, rfl, rfl⟩) ((symInv_shift rfl).2 (unplacedBelow_seedMemory _ _))

/-- SHIFT makes `J = 2*K` into `J = 2(K - 1)`: the first parity bit of the step is next (R220). -/
theorem inv_shift {s : State} (h : Inv s) (hp : s.ph = .shift) (b : Bool) : Inv (((s.ceStep b).incK).goto .addr) := by
  obtain ⟨hk, hj, hkept⟩ := (countInv_shift hp).1 h.counts
  have hu := (symInv_shift hp).1 h.unplaced
  replace hk : s.k.toNat < 81 := hk
  have hlt : s.k.toNat < 127 := by omega
  have hk1 : (s.k + 1).toNat = s.k.toNat + 1 := by bv_omega
  have hk81 : (s.k + 1).toNat ≤ 81 := by omega
  have hj1 : s.j.toNat + 2 = 2 * (s.k + 1).toNat := by omega
  rw [State.incK_of_lt (show (s.ceStep b).k.toNat < 127 from hlt)]
  exact inv_of_counting rfl h.sym_wf (h.errc_eq_none hp nofun)
    ((countInv_addr rfl).2 ⟨⟨hk81, .inl hj1⟩, hkept⟩) ((symInv_addr rfl).2 hu)

/-- ADDR on a kept value: the address latched is the one of the value passed (R221). -/
theorem inv_addr_kept {s : State} (h : Inv s) (hp : s.ph = .addr) (hk : keeps s.cnt = true) :
    Inv { s with cnt := s.cnt + 1, addr := rev8Bits s.cnt, ph := .place } := by
  obtain ⟨hplacing, hkept⟩ := (countInv_addr hp).1 h.counts
  have hu := (symInv_addr hp).1 h.unplaced
  have hne := ne_255_of_keeps hk
  have hcnt := toNat_add_one_of_ne_255 hne
  have hpassed : keptBelow (s.cnt + 1).toNat = s.j.toNat + 1 := by
    rw [keptBelow_toNat_add_one hne, hkept, if_pos hk]
  refine inv_of_counting rfl h.sym_wf (h.errc_eq_none hp nofun)
    ((countInv_place rfl).2 ⟨hplacing, hpassed, by bv_omega, ?_, by simpa [keeps] using hk⟩)
    ((symInv_place rfl).2 ?_)
  · exact congrArg rev8Bits (by bv_omega)
  · exact hu.mono (Nat.le_sub_one_of_lt (hcnt ▸ Nat.lt_succ_self s.cnt.toNat))

/-- ADDR on a value above 161: the count of draws stays, and the counter cannot wrap, because below 255 all 162 draws are
made and `J` is at most 161 (R178, R221). -/
theorem inv_addr_skipped {s : State} (h : Inv s) (hp : s.ph = .addr) (hk : keeps s.cnt = false) :
    Inv { s with cnt := s.cnt + 1, ph := .addr } := by
  obtain ⟨hplacing, hkept⟩ := (countInv_addr hp).1 h.counts
  have hu := (symInv_addr hp).1 h.unplaced
  have hne : s.cnt ≠ 255 := ne_255_of_keptBelow_lt (hkept ▸ hplacing.j_lt)
  have hpassed : keptBelow (s.cnt + 1).toNat = s.j.toNat := by
    rw [keptBelow_toNat_add_one hne, hkept, hk]; rfl
  exact inv_of_counting rfl h.sym_wf (h.errc_eq_none hp nofun)
    ((countInv_addr rfl).2 ⟨hplacing, hpassed⟩)
    ((symInv_addr rfl).2 (hu.mono (toNat_add_one_of_ne_255 hne ▸ Nat.le_succ _)))

/-! ### PLACE -/

theorem State.afterPlace_of_even {s : State} (h : s.j.toNat % 2 = 0) : s.afterPlace = .addr := by
  have hbit : s.j.getLsbD 0 = false := by simp [BitVec.getLsbD, Nat.testBit_zero, h]
  rw [State.afterPlace, hbit]; rfl

theorem State.afterPlace_of_odd {s : State} (h : s.j.toNat % 2 = 1) :
    s.afterPlace = if s.k.toNat = Config.steps then .done else .shift := by
  have hbit : s.j.getLsbD 0 = true := by simp [BitVec.getLsbD, Nat.testBit_zero, h]
  rw [State.afterPlace, hbit, if_pos rfl]

/-- PLACE at an address that ADDR latched: after an even `J` the second parity bit is next; after an odd one `J = 2*K`, so
the next step begins or, at `K` = 81, the encode is done (R222). -/
theorem inv_place {s : State} (h : Inv s) (hp : s.ph = .place) : Inv (s.placeLatched.incJ.goto s.afterPlace) := by
  obtain ⟨hplacing, hkept, hcnt, haddr, hmax⟩ := (countInv_place hp).1 h.counts
  have ⟨hk, hj⟩ := hplacing
  have hu := (symInv_place hp).1 h.unplaced
  have hlt : s.j.toNat < 255 := Nat.lt_trans hplacing.j_lt (by decide)
  have hj1 : (s.j + 1).toNat = s.j.toNat + 1 := by bv_omega
  rw [State.placeLatched_of_le hmax, State.incJ_of_lt (show (s.addElement _ _).j.toNat < 255 from hlt)]
  have hw : (s.sym.addAt (Config.free 2 s.freeCount) s.addr.toNat s.placeBit).wf = true :=
    Memory.wf_addAt _ h.sym_wf hmax
  have hunplaced : UnplacedBelow s.cnt.toNat (s.sym.addAt (Config.free 2 s.freeCount) s.addr.toNat s.placeBit) := by
    rw [haddr]
    exact hu.addAt (by omega) (by bv_omega) _ _
  have he := h.errc_eq_none hp nofun
  rcases Nat.mod_two_eq_zero_or_one s.j.toNat with h0 | h1
  · have hnext : (s.j + 1).toNat + 1 = 2 * s.k.toNat := by omega
    rw [State.afterPlace_of_even h0]
    exact inv_of_counting rfl hw he
      ((countInv_addr rfl).2 ⟨⟨hk, .inr hnext⟩, hkept.trans hj1.symm⟩)
      ((symInv_addr rfl).2 hunplaced)
  · have hnext : (s.j + 1).toNat = 2 * s.k.toNat := by omega
    rw [State.afterPlace_of_odd h1]
    split
    · exact inv_of_not_counting rfl hw (errInv_of_ne_err nofun he) nofun
    · exact inv_of_counting rfl hw he
        ((countInv_shift rfl).2 ⟨Nat.lt_of_le_of_ne hk ‹_›, hnext, hkept.trans hj1.symm⟩)
        ((symInv_shift rfl).2 hunplaced)

/-! ### The whole step -/

/-- In a wait phase the edge performs the host command. -/
theorem inv_of_step_wait {s t : State} (h : Inv s) (hr : s.ports.rst = false) (hb : s.busy = false)
    (ht : step s = .next t) : Inv t := by
  rw [step_of_wait hr hb] at ht
  obtain ⟨u, hu, rfl⟩ := mapNext_eq_next ht
  exact (inv_of_hostCommand h hu).advance

/-- An edge keeps the invariant if what it performs leaves a state that meets it. -/
theorem inv_of_step_eq {s t u : State} (hs : step s = .next u.advance) (hu : Inv u) (ht : step s = .next t) : Inv t :=
  Host.Outcome.next.inj (hs.symm.trans ht) ▸ hu.advance

/-- Settles O51, phase by phase: the reset, the host command of a wait phase, and each micro-operation keep `Inv`. -/
theorem stepKeepsInvariant : Obligations.StepKeepsInvariant := by
  unfold Obligations.StepKeepsInvariant
  intro s t h ht
  cases hr : s.ports.rst with
  | true => exact inv_of_step_eq (step_of_rst hr) (inv_resetRegisters s) ht
  | false =>
    cases hp : s.ph with
    | idle => exact inv_of_step_wait h hr (by simp [State.busy, hp, busyPhase]) ht
    | done => exact inv_of_step_wait h hr (by simp [State.busy, hp, busyPhase]) ht
    | err => exact inv_of_step_wait h hr (by simp [State.busy, hp, busyPhase]) ht
    | pack => exact inv_of_step_eq (step_of_pack hr hp) (inv_packFields h hp) ht
    | seed => exact inv_of_step_eq (step_of_seed hr hp) (inv_seed h hp) ht
    | shift =>
      obtain ⟨hk, -⟩ := (countInv_shift hp).1 h.counts
      exact inv_of_step_eq (step_of_shift hr hp (Nat.le_of_lt_succ hk)) (inv_shift h hp _) ht
    | addr =>
      cases hk : keeps s.cnt with
      | true => exact inv_of_step_eq (step_of_addr_kept hr hp hk) (inv_addr_kept h hp hk) ht
      | false => exact inv_of_step_eq (step_of_addr_skipped hr hp hk) (inv_addr_skipped h hp hk) ht
    | place => exact inv_of_step_eq (step_of_place hr hp) (inv_place h hp) ht

/-- Settles O50: after reset the block waits in IDLE without an error and the memory lists nothing. -/
theorem invariantAtReset : Obligations.InvariantAtReset := by
  unfold Obligations.InvariantAtReset
  exact inv_of_not_counting rfl State.reset_sym_wf rfl nofun

end Sys2Proof.Machine
end

section
/-! PROOFS. The output ports as functions of the phase code (10_state.md R22, R38), and the state after reset (R43). -/

namespace Sys2Proof.Machine

theorem busyPhase_iff_code (p : Phase) : busyPhase p = true ↔ p.code.toNat ∈ [1, 2, 3, 4, 5] := by
  cases p <;> decide

theorem eq_done_iff_code (p : Phase) : p = .done ↔ p.code.toNat = 6 := by
  cases p <;> decide

theorem eq_err_iff_code (p : Phase) : p = .err ↔ p.code.toNat = 7 := by
  cases p <;> decide

theorem State.done_iff (s : State) : s.done = true ↔ s.ph.code.toNat = 6 := by
  rw [State.done, decide_eq_true_iff, eq_done_iff_code]

theorem State.err_iff (s : State) : s.err = true ↔ s.ph.code.toNat = 7 := by
  rw [State.err, decide_eq_true_iff, eq_err_iff_code]

theorem State.rdData_eq (s : State) (a : Byte) :
    s.rdData a = if s.ph.code.toNat = 6 ∧ a.toNat ≤ 161 then s.sym.read a.toNat else 0 := by
  simp only [State.rdData, Bool.and_eq_true, s.done_iff, decide_eq_true_eq]
  rfl

/-- Exactly one of the four status flags holds (R22). -/
theorem State.one_status_flag (s : State) : s.idle.toNat + s.busy.toNat + s.done.toNat + s.err.toNat = 1 := by
  unfold State.idle State.busy State.done State.err
  cases s.ph <;> rfl

/-- Settles O42: each flag is read off the phase code, and the read port off the flag `done`. -/
theorem outputPorts : Obligations.OutputPorts := by
  unfold Obligations.OutputPorts
  intro s
  exact ⟨busyPhase_iff_code s.ph, s.done_iff, s.err_iff, s.rdData_eq, rfl, s.one_status_flag⟩

/-- Settles O44: in IDLE with no error every output is low, the read port at whatever address the host drives. -/
theorem stateAfterReset : Obligations.StateAfterReset := by
  unfold Obligations.StateAfterReset
  exact ⟨rfl, rfl, fun _ => rfl⟩

end Sys2Proof.Machine
end

section
/-! PROOFS. The symbol memory under the operations (20_memory.md R60, R61, R66): what any operation can do to it, that each
such change keeps the canonical form, and `place` outside the rules. -/

namespace Sys2Proof.Machine

/-! ### What an operation can do to the memory -/

/-- The memories that one operation can leave in a state `s`. -/
inductive MemoryChange (s : State) : Memory → Prop where
  /-- the operations other than `SEED`, `PLACE` and `RESET` write no element (10_state.md R33) -/
  | kept : MemoryChange s s.sym
  /-- `MA.SEED`, R192 -/
  | seeded : MemoryChange s (seedMemory Config.sync)
  /-- `MA.PLACE` at an element that exists, R193 -/
  | placed (other : Sym) {a : Nat} (p : Bool) (ha : a ≤ Config.addrMax) : MemoryChange s (s.sym.addAt other a p)
  /-- `RESET` (log entry 3), and `PLACE` with an address above 161 (log entry 11) -/
  | lost : MemoryChange s s.freeMemory

/-- Every change leaves the canonical form. -/
theorem MemoryChange.wf {s : State} {m : Memory} (hm : MemoryChange s m) (h : s.sym.wf = true) : m.wf = true := by
  cases hm with
  | kept => exact h
  | seeded => exact Memory.wf_seedMemory _
  | placed _ p ha => exact Memory.wf_addAt p h ha
  | lost => exact s.wf_freeMemory

/-- An operation whose next state is known changes the memory as that state shows. -/
theorem MemoryChange.of_next {s t u : State} (h : (.next u : Host.Outcome State Fault Refusal) = .next t)
    (hm : MemoryChange s u.sym) : MemoryChange s t.sym :=
  Host.Outcome.next.inj h ▸ hm

theorem memoryChange_of_startAccepted {s t : State} (h : startAccepted s = .next t) : MemoryChange s t.sym := by
  obtain ⟨-, -, e⟩ | ⟨-, e⟩ := startAccepted_cases s <;> exact .of_next (e.symm.trans h) .kept

theorem memoryChange_of_hostCommand {s t : State} (h : hostCommand s = .next t) : MemoryChange s t.sym := by
  obtain e | e | e | e := hostCommand_cases s <;> exact .of_next (e.symm.trans h) .kept

theorem memoryChange_of_execStart {s t : State} (h : execStart s = .next t) : MemoryChange s t.sym := by
  unfold execStart at h
  split at h
  · exact .of_next h .kept
  · exact memoryChange_of_startAccepted h

theorem memoryChange_of_execClear {s t : State} (h : execClear s = .next t) : MemoryChange s t.sym := by
  unfold execClear at h
  split at h <;> exact .of_next h .kept

theorem memoryChange_of_execAddr {s t : State} (h : execAddr s = .next t) : MemoryChange s t.sym := by
  unfold execAddr at h
  split at h <;> exact .of_next h .kept

theorem memoryChange_of_execIlnext {s t : State} (h : execIlnext s = .next t) : MemoryChange s t.sym := by
  unfold execIlnext at h
  split at h
  · exact .of_next h .kept
  · cases h

theorem memoryChange_of_execEncode {call loc : List Byte} {p : Int} {s t : State}
    (h : execEncode call loc p s = .next t) : MemoryChange s t.sym := by
  unfold execEncode at h
  split at h <;> exact .of_next h .kept

theorem memoryChange_of_placeAt {a : Byte} {p : Bool} {s t : State} (h : placeAt a p s = .next t) :
    MemoryChange s t.sym := by
  obtain ⟨ha, rfl⟩ := placeAt_next h
  exact .placed _ p ha

/-- The buffer write of `PLACE` places at an element, or loses the buffer where the latch names none. -/
theorem State.memoryChange_placeLatched (s : State) : MemoryChange s s.placeLatched.sym := by
  obtain ⟨ha, e⟩ | ⟨-, e⟩ := s.placeLatched_cases <;> rw [e]
  · exact .placed _ s.placeBit ha
  · exact .lost

/-- Everything an operation can do to the memory. -/
theorem memoryChange_of_exec {i : Instr} {s t : State} (h : exec i s = .next t) : MemoryChange s t.sym := by
  cases i with
  | nop | rsvd3 | pack | shift | value | check | layout | packN | packM | bitsched | cestep | parity | ceinit | rev8
  | ilinit => exact .of_next h .kept
  | idle | done | err => exact memoryChange_of_hostCommand h
  | start => exact memoryChange_of_execStart h
  | clear => exact memoryChange_of_execClear h
  | addr => exact memoryChange_of_execAddr h
  | ilnext => exact memoryChange_of_execIlnext h
  | encode => exact memoryChange_of_execEncode h
  | seed | seedOp => exact .of_next h .seeded
  | place => exact memoryChange_of_placeAt h
  | placeOp => exact .of_next h s.memoryChange_placeLatched
  | reset => exact .of_next h .lost

/-- Settles O49: the four changes an operation can make to the memory each keep the canonical form. -/
theorem operationsKeepMemoryForm : Obligations.OperationsKeepMemoryForm := by
  unfold Obligations.OperationsKeepMemoryForm
  intro i s t hwf h
  exact (memoryChange_of_exec h).wf hwf

/-! ### `place` outside the rules -/

theorem fitsSym_eq_false {v : Sym} {p : Bool} (h : 3 < v.toNat + 2 * p.toNat) : fitsSym v p = false :=
  decide_eq_false (Nat.not_le_of_lt h)

theorem addParity_of_not_fits {other v : Sym} {p : Bool} (h : fitsSym v p = false) : addParity other v p = other := by
  simp [addParity, h]

/-- A sum above 3 writes the next free value to the element (R66, log entry 10). -/
theorem State.addElement_of_not_fits {s : State} {a : Nat} {p : Bool} (h : fitsSym (s.sym.read a) p = false) :
    s.addElement a p =
      { s with sym := s.sym.write a (Config.free 2 s.freeCount), freeCount := s.freeCount + 1 } := by
  simp [State.addElement, Memory.addAt, addParity_of_not_fits h, h]

theorem placeAt_of_addrMax_lt {a : Byte} (h : Config.addrMax < a.toNat) (p : Bool) (s : State) :
    placeAt a p s = .fault .noSuchAddress :=
  if_neg (Nat.not_le_of_lt h)

/-- `place` is `MA.PLACE` of its arguments (R193). -/
theorem exec_place (a : Byte) (p : Bool) (s : State) : exec (.place a p) s = placeAt a p s := rfl

/-- Settles O30: the memory left by a sum above 3 is one write of a free value, and above 161 `placeAt` faults. -/
theorem placeOutsideTheRules : Obligations.PlaceOutsideTheRules := by
  unfold Obligations.PlaceOutsideTheRules
  intro s a p
  refine ⟨fun ha hsum => ⟨s.sym.write a.toNat (Config.free 2 s.freeCount), ?_, ?_⟩, fun ha => ?_⟩
  · rw [exec_place, placeAt_of_le ha, State.addElement_of_not_fits (fitsSym_eq_false hsum)]
  · exact fun b hb => Memory.read_write_of_ne s.sym hb
  · rw [exec_place, placeAt_of_addrMax_lt ha]

end Sys2Proof.Machine
end

section
/-! PROOFS. The words of the operations (30_encoding.md R91, R93, R108): the decoder reads every code as its own operation, and
encoder and decoder agree. -/

namespace Sys2Proof

/-- The family of Laws.RoundTrip over all operations. -/
theorem Laws.RoundTrip.of_instr : (i : Instr) → Laws.RoundTrip.Statement i
  | .nop => nop
  | .start => start
  | .clear => clear
  | .rsvd3 => rsvd3
  | .idle => idle
  | .pack => pack
  | .seedOp => seedOp
  | .shift => shift
  | .addr => addr
  | .placeOp => placeOp
  | .done => done
  | .err => err
  | .reset => reset
  | .value c => value c
  | .check callLen locLen => check callLen locLen
  | .layout call => layout call
  | .packN buf => packN buf
  | .packM loc p => packM loc p
  | .bitsched n m k => bitsched n m k
  | .cestep b => cestep b
  | .parity x => parity x
  | .ceinit => ceinit
  | .rev8 x => rev8 x
  | .ilinit => ilinit
  | .ilnext => ilnext
  | .seed => seed
  | .place a p => place a p
  | .encode call loc p => encode call loc p

theorem encode_commandInstr (c : Command) : encode (commandInstr c) = some (.command, [c.code.setWidth 8]) := by
  cases c <;> rfl

theorem encode_phaseInstr (p : Phase) : encode (phaseInstr p) = some (.phase, [p.code.setWidth 8]) := by
  cases p <;> rfl

/-- The decoder reads the word of a command as that command (R91). -/
theorem decode_commandCode (c : Command) : decode .command [c.code.setWidth 8] = .ok (commandInstr c) :=
  Laws.RoundTrip.of_instr _ _ _ (encode_commandInstr c)

/-- The decoder reads the code of a phase as that phase (R93). -/
theorem decode_phaseCode (p : Phase) : decode .phase [p.code.setWidth 8] = .ok (phaseInstr p) :=
  Laws.RoundTrip.of_instr _ _ _ (encode_phaseInstr p)

/-- Every command word is the word of the command it decodes to (R91). -/
theorem code_decodeCommand : ∀ w : BitVec 2, (decodeCommand w).code = w := by decide

/-- Every phase code is the code of the phase it decodes to (R93). -/
theorem code_decodePhase : ∀ w : BitVec 3, (decodePhase w).code = w := by decide

/-- Settles O2: the literals are the codes of the four commands and the eight phases, and the port `rst`. -/
theorem writtenWordsDecode : Obligations.WrittenWordsDecode := by
  unfold Obligations.WrittenWordsDecode
  exact ⟨decode_commandCode .nop, decode_commandCode .start, decode_commandCode .clear, decode_commandCode .rsvd3,
    decode_phaseCode .idle, decode_phaseCode .pack, decode_phaseCode .seed, decode_phaseCode .shift,
    decode_phaseCode .addr, decode_phaseCode .place, decode_phaseCode .done, decode_phaseCode .err, rfl, rfl⟩

/-- Settles O3: the family RoundTrip, the two code tables, and that commands, phases and the reset have words. -/
theorem decodeOfEncode : Obligations.DecodeOfEncode := by
  unfold Obligations.DecodeOfEncode
  refine ⟨Laws.RoundTrip.of_instr, fun w => ?_, fun w => ?_, fun i hi => ⟨?_, ?_, ?_⟩⟩
  · rw [encode_commandInstr, code_decodeCommand]
  · rw [encode_phaseInstr, code_decodePhase]
  · rintro c rfl
    simp [encode_commandInstr] at hi
  · rintro p rfl
    simp [encode_phaseInstr] at hi
  · rintro rfl
    simp [encode] at hi

end Sys2Proof
end

section
/-! PROOFS. An encode from SEED to DONE (44_sequencer_host.md R219 to R222, R231): at every edge the parity bits and the addresses
still to come complete the buffer to the one that `encode` assembles. -/

namespace Sys2Proof.Machine

/-! ### Reversal and draws -/

/-- `rev8` is its own inverse (R171). -/
theorem rev8Bits_rev8Bits : ∀ x : Byte, rev8Bits (rev8Bits x) = x := by decide +kernel

theorem rev8Bits_injective : Function.Injective rev8Bits :=
  Function.LeftInverse.injective rev8Bits_rev8Bits

/-- The reversal of an even value is at most 127, hence an address (R171, R174). -/
theorem keeps_of_even {c : Byte} (h : c.getLsbD 0 = false) : keeps c = true := by
  refine decide_eq_true (?_ : (rev8Bits c).toNat ≤ 161)
  have bit (i : Nat) : (c.getLsbD i).toNat ≤ 1 := Bool.toNat_le _
  rw [rev8Bits, h, BitVec.toNat_ofNat, Bool.toNat_false]
  refine (Nat.mod_le _ _).trans ?_
  linarith [bit 1, bit 2, bit 3, bit 4, bit 5, bit 6, bit 7]

/-- After a discarded value the next one is kept: the first is odd (R175). -/
theorem keeps_add_one {c : Byte} (h : keeps c = false) : keeps (c + 1) = true := by
  have hodd : c.getLsbD 0 = true := by
    cases hb : c.getLsbD 0 with
    | true => rfl
    | false => exact absurd (keeps_of_even hb) (by simp [h])
  apply keeps_of_even
  simp [BitVec.getLsbD, Nat.testBit_zero] at hodd ⊢
  omega

theorem draw_of_keeps {c : Byte} (h : keeps c = true) : draw c = some (rev8Bits c, c + 1) := by
  rw [draw, if_neg (ne_255_of_keeps h), drawWithin_of_keeps 255 h]

/-- A discarded value leaves the draw to the next one (R174). -/
theorem draw_of_not_keeps {c : Byte} (h : keeps c = false) (hc : c ≠ 255) : draw c = draw (c + 1) := by
  have hnext := keeps_add_one h
  rw [draw_of_keeps hnext, draw, if_neg hc, drawWithin_of_not_keeps 255 h, drawWithin_of_keeps 254 hnext]

theorem drawAddrs_of_keeps {c : Byte} (count : Nat) (h : keeps c = true) :
    drawAddrs (count + 1) c = rev8Bits c :: drawAddrs count (c + 1) := by
  rw [drawAddrs, draw_of_keeps h]

theorem drawAddrs_of_not_keeps {c : Byte} (count : Nat) (h : keeps c = false) (hc : c ≠ 255) :
    drawAddrs count c = drawAddrs count (c + 1) := by
  cases count with
  | zero => rfl
  | succ count => rw [drawAddrs, drawAddrs, draw_of_not_keeps h hc]

/-! ### Placing without a free value -/

/-- At PLACE the element still holds its sync bit, so the sum stays in 0..3 (R66): no smaller counter value has the address,
because `rev8` is injective. -/
theorem Inv.fitsSym_place {s : State} (h : Inv s) (hp : s.ph = .place) :
    fitsSym (s.sym.read s.addr.toNat) s.placeBit = true := by
  obtain ⟨-, -, hcnt, haddr, hmax⟩ := (countInv_place hp).1 h.counts
  have hle : (s.sym.read s.addr.toNat).toNat ≤ 1 := by
    refine (symInv_place hp).1 h.unplaced _ hmax ?_
    rintro ⟨x, hx, ha⟩
    have hxc := rev8Bits_injective (BitVec.eq_of_toNat_eq (haddr ▸ ha))
    bv_omega
  have hbit := Bool.toNat_le s.placeBit
  exact decide_eq_true (by omega)

/-- Where the sum stays in 0..3, the value for larger sums does not matter. -/
theorem Memory.addAt_of_fits {m : Memory} {a : Nat} {p : Bool} (h : fitsSym (m.read a) p = true) (other other' : Sym) :
    m.addAt other a p = m.addAt other' a p := by
  simp [Memory.addAt, addParity, h]

/-! ### What is still to come -/

/-- The parity bits not placed yet: those of step `K - 1` that `J` has not reached, then those of the steps from `K` on. -/
def State.bitsLeft (s : State) : List Bool :=
  [s.p0, s.p1].drop (s.j.toNat + 2 - 2 * s.k.toNat) ++ convFrom s.n s.m (Config.steps - s.k.toNat) s.k.toNat s.reg

/-- The addresses not placed into yet: at PLACE the one that is latched, then those still to be drawn. -/
def State.addrsLeft (s : State) : List Byte :=
  if s.ph = .place then s.addr :: drawAddrs (161 - s.j.toNat) s.cnt else drawAddrs (162 - s.j.toNat) s.cnt

/-- The edges that a running encode still takes to DONE: one per step, per counter value and per parity bit (R231). -/
def State.edgesLeft (s : State) : Nat :=
  (Config.steps - s.k.toNat) + (255 - s.cnt.toNat) + (Config.nsym - s.j.toNat)

/-- An encode of the packed fields `n` and `m` is running after its SEED, and what is left of it completes the buffer. -/
structure Encoding (n : PackedN) (m : PackedM) (s : State) : Prop where
  counting : countingPhase s.ph = true
  inv : Inv s
  fieldN : s.n = n
  fieldM : s.m = m
  completes : ∀ other, assemble other s.sym s.bitsLeft s.addrsLeft = assembleFields Config.sync other n m

/-- An encode of the packed fields `n` and `m` has ended, and the buffer is the one that `encode` assembles. -/
structure Encoded (n : PackedN) (m : PackedM) (s : State) : Prop where
  done : s.ph = .done
  sym : ∀ other, s.sym = assembleFields Config.sync other n m

/-- What one edge of a running encode leads to: one edge less is left, or the encode has ended. -/
def EncodingStep (n : PackedN) (m : PackedM) (s t : State) : Prop :=
  t.edgesLeft + 1 = s.edgesLeft ∧ (Encoding n m t ∨ Encoded n m t)

/-- Nothing in a running encode depends on the ports (R214). -/
theorem Encoding.withPorts {n : PackedN} {m : PackedM} {s : State} (h : Encoding n m s) (q : Ports) (l : List Ports) :
    Encoding n m { s with ports := q, script := l } :=
  ⟨h.counting, ⟨h.inv.sym_wf, h.inv.errc, h.inv.latch, h.inv.counts, h.inv.unplaced⟩, h.fieldN, h.fieldM, h.completes⟩

theorem Encoding.advance {n : PackedN} {m : PackedM} {s : State} (h : Encoding n m s) : Encoding n m s.advance :=
  h.withPorts _ _

theorem EncodingStep.advance {n : PackedN} {m : PackedM} {s u : State} (h : EncodingStep n m s u) :
    EncodingStep n m s u.advance :=
  ⟨h.1, h.2.imp Encoding.advance fun e => ⟨e.done, e.sym⟩⟩

/-! ### Each edge -/

/-- SEED establishes what the invariant asks at SHIFT, whatever the buffer and the counters held before (R219). -/
theorem inv_of_seed {s : State} (he : s.errc = .none) : Inv (s.seedSym.ceInit.ilInit.clearCounts.goto .shift) :=
  inv_of_counting (by simp [countingPhase]) (by simpa using Memory.wf_seedMemory _) (by simpa using he)
    ((countInv_shift (State.goto_ph _ _)).2 (by simp [Config.steps, keptBelow]))
    ((symInv_shift (State.goto_ph _ _)).2 (by simpa using unplacedBelow_seedMemory _ _))

/-- After SEED the whole stream and all 162 addresses are left (R219). -/
theorem encoding_seed {s : State} (he : s.errc = .none) :
    Encoding s.n s.m (s.seedSym.ceInit.ilInit.clearCounts.goto .shift) := by
  have hbits : (s.seedSym.ceInit.ilInit.clearCounts.goto .shift).bitsLeft = conv s.n s.m := by
    simp [State.bitsLeft, conv]
  have haddrs : (s.seedSym.ceInit.ilInit.clearCounts.goto .shift).addrsLeft = addrSeq := by
    simp [State.addrsLeft, addrSeq, Config.nsym]
  refine ⟨by simp [countingPhase], inv_of_seed he, by simp, by simp, fun other => ?_⟩
  rw [hbits, haddrs, assembleFields, State.goto_sym, State.clearCounts_sym, State.ilInit_sym, State.ceInit_sym,
    State.seedSym_sym]

/-- An edge that places no bit leaves as much to come as before. -/
theorem Encoding.of_same_left {n : PackedN} {m : PackedM} {s u : State} (h : Encoding n m s)
    (hc : countingPhase u.ph = true) (hi : Inv u) (hf : (u.n, u.m, u.sym) = (s.n, s.m, s.sym))
    (hb : u.bitsLeft = s.bitsLeft) (ha : u.addrsLeft = s.addrsLeft) : Encoding n m u := by
  obtain ⟨hn, hm, hs⟩ : u.n = s.n ∧ u.m = s.m ∧ u.sym = s.sym := by simpa using hf
  exact ⟨hc, hi, hn.trans h.fieldN, hm.trans h.fieldM, fun other => by rw [hs, hb, ha, h.completes other]⟩

theorem State.toNat_incK_k {s : State} (h : s.k.toNat < 127) : s.incK.k.toNat = s.k.toNat + 1 := by
  rw [State.incK_k, if_pos h]
  bv_omega

theorem State.toNat_incJ_j {s : State} (h : s.j.toNat < 255) : s.incJ.j.toNat = s.j.toNat + 1 := by
  rw [State.incJ_j, if_pos h]
  bv_omega

/-- SHIFT computes into `P0` and `P1` the two bits that the stream has next (R220). -/
theorem State.bitsLeft_shift {s : State} (hk : s.k.toNat < Config.steps) (hj : s.j.toNat = 2 * s.k.toNat) :
    (((s.ceStep ((schedBit s.n s.m s.k.toNat).getD false)).incK).goto .addr).bitsLeft = s.bitsLeft := by
  have hk1 : (s.ceStep ((schedBit s.n s.m s.k.toNat).getD false)).incK.k.toNat = s.k.toNat + 1 :=
    State.toNat_incK_k (Nat.lt_trans hk (by decide))
  have hsteps : Config.steps - s.k.toNat = Config.steps - (s.k.toNat + 1) + 1 := by omega
  have hboth : 2 * s.k.toNat + 2 - 2 * (s.k.toNat + 1) = 0 := by omega
  have hnone : 2 * s.k.toNat + 2 - 2 * s.k.toNat = 2 := by omega
  unfold State.bitsLeft
  rw [State.goto_k, hk1, State.goto_j, State.incK_j, State.ceStep_j, hj, hboth, hnone, hsteps, convFrom]
  simp

/-- SHIFT: one step less is left (R220). -/
theorem Encoding.shift {n : PackedN} {m : PackedM} {s : State} (h : Encoding n m s) (hp : s.ph = .shift) :
    EncodingStep n m s (((s.ceStep ((schedBit s.n s.m s.k.toNat).getD false)).incK).goto .addr) := by
  obtain ⟨hk, hj, -⟩ := (countInv_shift hp).1 h.inv.counts
  refine ⟨?_, .inl (h.of_same_left rfl (inv_shift h.inv hp _) rfl (State.bitsLeft_shift hk hj) ?_)⟩
  · have hk1 : (s.ceStep ((schedBit s.n s.m s.k.toNat).getD false)).incK.k.toNat = s.k.toNat + 1 :=
      State.toNat_incK_k (Nat.lt_trans hk (by decide))
    simp only [State.edgesLeft, State.goto_k, hk1, State.goto_cnt, State.incK_cnt, State.ceStep_cnt, State.goto_j,
      State.incK_j, State.ceStep_j]
    omega
  · simp [State.addrsLeft, hp]

/-- ADDR on a kept value: the address drawn is the next of the sequence (R221). -/
theorem Encoding.addr_kept {n : PackedN} {m : PackedM} {s : State} (h : Encoding n m s) (hp : s.ph = .addr)
    (hk : keeps s.cnt = true) :
    EncodingStep n m s { s with cnt := s.cnt + 1, addr := rev8Bits s.cnt, ph := .place } := by
  obtain ⟨hplacing, -⟩ := (countInv_addr hp).1 h.inv.counts
  have hj := hplacing.j_lt
  have hne := ne_255_of_keeps hk
  refine ⟨?_, .inl (h.of_same_left rfl (inv_addr_kept h.inv hp hk) rfl rfl ?_)⟩
  · simp only [State.edgesLeft, toNat_add_one_of_ne_255 hne]
    bv_omega
  · have haddrs : s.addrsLeft = rev8Bits s.cnt :: drawAddrs (161 - s.j.toNat) (s.cnt + 1) := by
      rw [State.addrsLeft, if_neg (by simp [hp]), show 162 - s.j.toNat = 161 - s.j.toNat + 1 by omega,
        drawAddrs_of_keeps _ hk]
    exact haddrs.symm

/-- ADDR on a value above 161: the sequence goes on at the next counter value (R221). -/
theorem Encoding.addr_skipped {n : PackedN} {m : PackedM} {s : State} (h : Encoding n m s) (hp : s.ph = .addr)
    (hk : keeps s.cnt = false) : EncodingStep n m s { s with cnt := s.cnt + 1, ph := .addr } := by
  obtain ⟨hplacing, hkept⟩ := (countInv_addr hp).1 h.inv.counts
  have hne : s.cnt ≠ 255 := ne_255_of_keptBelow_lt (hkept ▸ hplacing.j_lt)
  refine ⟨?_, .inl (h.of_same_left rfl (inv_addr_skipped h.inv hp hk) rfl rfl ?_)⟩
  · simp only [State.edgesLeft, toNat_add_one_of_ne_255 hne]
    bv_omega
  · have haddrs : s.addrsLeft = drawAddrs (162 - s.j.toNat) (s.cnt + 1) := by
      rw [State.addrsLeft, if_neg (by simp [hp]), drawAddrs_of_not_keeps _ hk hne]
    exact haddrs.symm

theorem State.placeBit_of_even {s : State} (h : s.j.toNat % 2 = 0) : s.placeBit = s.p0 := by
  have hbit : s.j.getLsbD 0 = false := by simp [BitVec.getLsbD, Nat.testBit_zero, h]
  rw [State.placeBit, hbit]
  rfl

theorem State.placeBit_of_odd {s : State} (h : s.j.toNat % 2 = 1) : s.placeBit = s.p1 := by
  have hbit : s.j.getLsbD 0 = true := by simp [BitVec.getLsbD, Nat.testBit_zero, h]
  rw [State.placeBit, hbit, if_pos rfl]

/-- The state after PLACE at an address that ADDR latched (R222). -/
def State.placed (s : State) : State := ((s.addElement s.addr.toNat s.placeBit).incJ).goto s.afterPlace

theorem Inv.place_eq_placed {s : State} (h : Inv s) (hp : s.ph = .place) :
    s.placeLatched.incJ.goto s.afterPlace = s.placed := by
  obtain ⟨-, -, -, -, hmax⟩ := (countInv_place hp).1 h.counts
  rw [State.placeLatched_of_le hmax, State.placed]

@[simp] theorem State.placed_n (s : State) : s.placed.n = s.n := rfl
@[simp] theorem State.placed_m (s : State) : s.placed.m = s.m := rfl
@[simp] theorem State.placed_reg (s : State) : s.placed.reg = s.reg := rfl
@[simp] theorem State.placed_p0 (s : State) : s.placed.p0 = s.p0 := rfl
@[simp] theorem State.placed_p1 (s : State) : s.placed.p1 = s.p1 := rfl
@[simp] theorem State.placed_cnt (s : State) : s.placed.cnt = s.cnt := rfl
@[simp] theorem State.placed_k (s : State) : s.placed.k = s.k := rfl
@[simp] theorem State.placed_ph (s : State) : s.placed.ph = s.afterPlace := rfl

theorem State.toNat_placed_j {s : State} (h : PlacingCounts s) : s.placed.j.toNat = s.j.toNat + 1 :=
  State.toNat_incJ_j (s := s.addElement s.addr.toNat s.placeBit) (Nat.lt_trans h.j_lt (by decide))

/-- The bit that PLACE places is the first that was left (R222). -/
theorem State.bitsLeft_eq_placeBit_cons {s : State} (h : PlacingCounts s) :
    s.bitsLeft = s.placeBit :: s.placed.bitsLeft := by
  simp only [State.bitsLeft, s.toNat_placed_j h, State.placed_n, State.placed_m, State.placed_reg, State.placed_p0,
    State.placed_p1, State.placed_k]
  obtain ⟨-, hj | hj⟩ := h
  · rw [State.placeBit_of_even (by omega), show s.j.toNat + 2 - 2 * s.k.toNat = 0 by omega,
      show s.j.toNat + 1 + 2 - 2 * s.k.toNat = 1 by omega]
    rfl
  · rw [State.placeBit_of_odd (by omega), show s.j.toNat + 2 - 2 * s.k.toNat = 1 by omega,
      show s.j.toNat + 1 + 2 - 2 * s.k.toNat = 2 by omega]
    rfl

/-- PLACE is followed by another draw or step, or ends the encode when all 162 bits are placed (R222, R224). -/
theorem PlacingCounts.afterPlace_cases {s : State} (h : PlacingCounts s) :
    (countingPhase s.afterPlace = true) ∨ (s.afterPlace = .done ∧ s.k.toNat = 81 ∧ s.j.toNat = 161) := by
  rcases Nat.mod_two_eq_zero_or_one s.j.toNat with h0 | h1
  · exact .inl (by rw [State.afterPlace_of_even h0]; rfl)
  · rw [State.afterPlace_of_odd h1]
    obtain ⟨-, hj⟩ := h
    by_cases hk : s.k.toNat = Config.steps
    · have hk81 : s.k.toNat = 81 := hk
      exact .inr ⟨if_pos hk, hk81, by omega⟩
    · exact .inl (by rw [if_neg hk]; rfl)

theorem State.afterPlace_ne_place (s : State) : s.afterPlace ≠ .place := by
  unfold State.afterPlace
  split
  · split <;> nofun
  · nofun

/-- The address that PLACE places at is the first that was left. -/
theorem State.addrsLeft_eq_addr_cons {s : State} (hp : s.ph = .place) (h : PlacingCounts s) :
    s.addrsLeft = s.addr :: s.placed.addrsLeft := by
  have hrest : s.placed.addrsLeft = drawAddrs (162 - (s.j.toNat + 1)) s.cnt := by
    rw [State.addrsLeft, State.placed_ph, if_neg s.afterPlace_ne_place, s.toNat_placed_j h, State.placed_cnt]
  rw [hrest, State.addrsLeft, if_pos hp, show 162 - (s.j.toNat + 1) = 161 - s.j.toNat by omega]

/-- PLACE places the first bit that is left at the first address that is left, so that the rest completes the buffer. -/
theorem Encoding.completes_placed {n : PackedN} {m : PackedM} {s : State} (h : Encoding n m s) (hp : s.ph = .place)
    (other : Sym) :
    assemble other s.placed.sym s.placed.bitsLeft s.placed.addrsLeft = assembleFields Config.sync other n m := by
  obtain ⟨hplacing, -⟩ := (countInv_place hp).1 h.inv.counts
  have hsym : s.placed.sym = s.sym.addAt other s.addr.toNat s.placeBit :=
    Memory.addAt_of_fits (h.inv.fitsSym_place hp) _ _
  rw [← h.completes other, State.bitsLeft_eq_placeBit_cons hplacing, State.addrsLeft_eq_addr_cons hp hplacing, hsym,
    assemble]

/-- PLACE: one bit less is left, and after the last one the encode has ended (R222). -/
theorem Encoding.place {n : PackedN} {m : PackedM} {s : State} (h : Encoding n m s) (hp : s.ph = .place) :
    EncodingStep n m s (s.placeLatched.incJ.goto s.afterPlace) := by
  obtain ⟨hplacing, -⟩ := (countInv_place hp).1 h.inv.counts
  have hinv := inv_place h.inv hp
  have hj1 := s.toNat_placed_j hplacing
  rw [h.inv.place_eq_placed hp] at hinv ⊢
  refine ⟨?_, ?_⟩
  · have hj := hplacing.j_lt
    have hn : Config.nsym = 162 := rfl
    rw [State.edgesLeft, hj1, State.placed_k, State.placed_cnt, State.edgesLeft]
    omega
  · obtain hc | ⟨hd, hk, hj⟩ := hplacing.afterPlace_cases
    · exact .inl ⟨hc, hinv, h.fieldN, h.fieldM, h.completes_placed hp⟩
    · have hbits : s.placed.bitsLeft = [] := by
        rw [State.bitsLeft, hj1, hj, State.placed_k, hk]
        rfl
      refine .inr ⟨hd, fun other => ?_⟩
      rw [← h.completes_placed hp other, hbits, assemble]

/-- Every edge of a running encode brings it one edge nearer to its end (R231). -/
theorem Encoding.step {n : PackedN} {m : PackedM} {s : State} (h : Encoding n m s) (hr : s.ports.rst = false) :
    ∃ t, step s = .next t ∧ EncodingStep n m s t := by
  have hc := h.counting
  cases hp : s.ph with
  | idle | pack | seed | done | err => simp [hp, countingPhase] at hc
  | shift =>
    obtain ⟨hk, -⟩ := (countInv_shift hp).1 h.inv.counts
    exact ⟨_, step_of_shift hr hp (Nat.le_of_lt_succ hk), (h.shift hp).advance⟩
  | addr =>
    cases hk : keeps s.cnt with
    | true => exact ⟨_, step_of_addr_kept hr hp hk, (h.addr_kept hp hk).advance⟩
    | false => exact ⟨_, step_of_addr_skipped hr hp hk, (h.addr_skipped hp hk).advance⟩
  | place => exact ⟨_, step_of_place hr hp, (h.place hp).advance⟩

/-! ### Running the host's lines -/

theorem waitIdle_of_not_busy (fuel : Nat) {s : State} (h : s.busy = false) : waitIdle fuel s = .next s := by
  cases fuel with
  | zero => rfl
  | succ fuel => simp [waitIdle, h]

theorem waitIdle_of_busy (fuel : Nat) {s t : State} (h : s.busy = true) (hd : drive (commandPorts 0) s = .next t) :
    waitIdle (fuel + 1) s = waitIdle fuel t := by
  rw [waitIdle, if_pos h, hd]

theorem busy_of_countingPhase {s : State} (h : countingPhase s.ph = true) : s.busy = true := by
  unfold State.busy
  cases hp : s.ph <;> simp_all [countingPhase, busyPhase]

/-- An edge of `WAIT` is an edge of the running encode. -/
theorem Encoding.drive_nop {n : PackedN} {m : PackedM} {s : State} (h : Encoding n m s) :
    ∃ t, drive (commandPorts 0) s = .next t ∧ EncodingStep n m s t :=
  (h.withPorts (commandPorts 0) []).step rfl

/-- `WAIT` takes a running encode to its end if it may take the edges that are left (R107, R231). -/
theorem Encoding.waitIdle_next {n : PackedN} {m : PackedM} {s : State} (h : Encoding n m s) {fuel : Nat}
    (hf : s.edgesLeft ≤ fuel) : ∃ t, waitIdle fuel s = .next t ∧ Encoded n m t := by
  induction fuel generalizing s with
  | zero =>
    obtain ⟨t, -, hleft, -⟩ := h.drive_nop
    omega
  | succ fuel ih =>
    obtain ⟨t, hstep, hleft, hnext⟩ := h.drive_nop
    rw [waitIdle_of_busy fuel (busy_of_countingPhase h.counting) hstep]
    obtain hrun | hend := hnext
    · exact ih hrun (by omega)
    · exact ⟨t, waitIdle_of_not_busy fuel (by rw [State.busy, hend.done]; rfl), hend⟩

end Sys2Proof.Machine
end

section
/-! PROOFS. The host's lines ENCODE and READALL (30_encoding.md R107): START latches what the ports present, PACK and SEED begin the
encode of the packed fields, and the read port shows the symbols that `encode` gives. -/

namespace Sys2Proof.Machine

/-! ### Presented operands -/

/-- The line `START` presents its operands, for every power that the port holds (R94 to R96). -/
theorem presents_startPorts (call loc : List Byte) {p : Int} (h1 : -128 ≤ p) (h2 : p ≤ 127) :
    Presents (startPorts call loc p) call loc p where
  callLen := rfl
  callCh i hi := charAt6_chars6 _ (by omega)
  locLen := rfl
  locCh _ i hi := charAt4_chars4 _ hi
  power := BitVec.toInt_ofInt_eq_self (by decide) h1 (by omega)

/-- The presented lengths pass the check exactly if the lengths do (R124, R212). -/
theorem Presents.checkLens_eq {q : Ports} {call loc : List Byte} {p : Int} (h : Presents q call loc p) :
    checkLens q.callLen.toNat q.locLen.toNat = checkLens call.length loc.length := by
  rw [h.callLen, h.locLen, checkLens_presentLen]

/-- PACK of a presented callsign gives the `N` of `encode` (R218). -/
theorem Presents.packN_eq {q : Ports} {call loc : List Byte} {p : Int} (h : Presents q call loc p) :
    packNField (layoutChars q.callLen.toNat q.callCh) = packedCall call := by
  rw [h.callLen, layoutChars_presentLen, packedCall]
  refine congrArg packNField (layoutChars_congr fun i hi => ?_)
  rw [h.callCh i hi, firstSix, charAt6_chars6 _ (by omega)]

/-- PACK of a presented locator and power gives the `M` of `encode` (R218). -/
theorem Presents.packM_eq {q : Ports} {call loc : List Byte} {p : Int} (h : Presents q call loc p)
    (hl : loc.length = 4) : packMField q.locCh q.power.toInt = packedLoc loc p := by
  have hch : q.locCh = firstFour loc := chars4_ext fun i hi => by
    rw [h.locCh hl i hi, firstFour, charAt4_chars4 _ hi]
  rw [hch, h.power, packedLoc]

/-! ### From START to the first SHIFT -/

/-- A START in a wait phase that presents valid operands latches them (R212). -/
theorem step_of_start {s : State} {call loc : List Byte} {p : Int} (hr : s.ports.rst = false) (hb : s.busy = false)
    (hcmd : s.ports.cmd = 1) (h : Presents s.ports call loc p) (hc : call ≠ []) (hl : loc.length = 4) :
    step s = .next s.latch.advance := by
  have hlens : checkLens s.ports.callLen.toNat s.ports.locLen.toNat = true := by
    rw [h.checkLens_eq, checkLens_eq_true]
    exact ⟨fun h0 => hc (List.length_eq_zero_iff.1 h0), hl⟩
  have hcommand : hostCommand s = startAccepted s := by simp [hostCommand, hb, hcmd, decodeCommand]
  rw [step_of_wait hr hb, hcommand, startAccepted, if_pos hlens, mapNext_next]

/-- `WAIT` in the phase SEED makes the edge SEED and then the 498 edges of the steps, counter values and parity bits. -/
theorem waitIdle_of_seed {s : State} (hp : s.ph = .seed) (he : s.errc = .none) {fuel : Nat} (hf : 499 ≤ fuel) :
    ∃ t, waitIdle fuel s = .next t ∧ Encoded s.n s.m t := by
  obtain ⟨fuel, rfl⟩ : ∃ f, fuel = f + 1 := ⟨fuel - 1, by omega⟩
  have hdrive : drive (commandPorts 0) s = .next _ :=
    step_of_seed (s := { s with ports := commandPorts 0, script := [] }) rfl hp
  have hrun := (encoding_seed (s := { s with ports := commandPorts 0, script := [] }) he).advance
  rw [waitIdle_of_busy fuel (by rw [State.busy, hp]; rfl) hdrive]
  have h498 : Config.steps + 255 + Config.nsym = 498 := rfl
  exact hrun.waitIdle_next (h498.le.trans (by omega))

/-- `WAIT` in the phase PACK makes the edge PACK, whose fields are then encoded. -/
theorem waitIdle_of_pack {s : State} (hp : s.ph = .pack) (he : s.errc = .none) {fuel : Nat} (hf : 500 ≤ fuel) :
    ∃ t, waitIdle fuel s = .next t ∧
      Encoded (packNField (layoutChars s.callLen.toNat s.call)) (packMField s.loc s.pwr.toInt) t := by
  obtain ⟨fuel, rfl⟩ : ∃ f, fuel = f + 1 := ⟨fuel - 1, by omega⟩
  have hdrive : drive (commandPorts 0) s = .next _ :=
    step_of_pack (s := { s with ports := commandPorts 0, script := [] }) rfl hp
  rw [waitIdle_of_busy fuel (by rw [State.busy, hp]; rfl) hdrive]
  exact waitIdle_of_seed (s := ({ s with ports := commandPorts 0, script := [] } : State).packFields.advance) rfl he
    (by omega)

/-! ### Reading the symbols -/

theorem encodeWith_of_valid {call loc : List Byte} (hc : call ≠ []) (hl : loc.length = 4) (sync : BitVec 162)
    (other : Sym) (p : Int) : encodeWith sync other call loc p =
      some ((List.range Config.nsym).map (assembleFields sync other (packedCall call) (packedLoc loc p)).read) := by
  rw [encodeWith, packStrings_of_valid hc hl]
  rfl

/-- In DONE the line `READALL` shows the elements of the buffer (R215). -/
theorem State.readAll_of_done {s : State} (h : s.ph = .done) :
    s.readAll = (List.range Config.nsym).map s.sym.read := by
  refine List.map_congr_left fun a ha => ?_
  have hlt : a < 162 := List.mem_range.1 ha
  have hn : (BitVec.ofNat 8 a).toNat = a := by rw [BitVec.toNat_ofNat]; omega
  rw [State.rdData_eq, h, hn, if_pos ⟨rfl, by omega⟩]

/-- After an encode of the packed operands the line `READALL` shows what `encode` gives. -/
theorem Encoded.encodeWith_eq {call loc : List Byte} {p : Int} {t : State}
    (h : Encoded (packedCall call) (packedLoc loc p) t) (hc : call ≠ []) (hl : loc.length = 4) (other : Sym) :
    encodeWith Config.sync other call loc p = some t.readAll := by
  rw [encodeWith_of_valid hc hl, State.readAll_of_done h.done, ← h.sym other]

/-- Settles O55: START latches the operands, `WAIT` runs PACK, SEED and the encode to DONE, and the buffer is then the one
that `encode` assembles, whatever a symbol sum above 3 would give. -/
theorem encodeThenReadAll : Obligations.EncodeThenReadAll := by
  unfold Obligations.EncodeThenReadAll
  intro s call loc p hb hc hl h1 h2
  have hpres := presents_startPorts call loc h1 h2
  have hstart : drive (startPorts call loc p) s = .next _ :=
    step_of_start (s := { s with ports := startPorts call loc p, script := [] }) rfl hb rfl hpres hc hl
  obtain ⟨t, hwait, hend⟩ := waitIdle_of_pack
    (s := ({ s with ports := startPorts call loc p, script := [] } : State).latch.advance) rfl rfl (Nat.le_refl 500)
  replace hend : Encoded (packedCall call) (packedLoc loc p) t := by
    rw [← hpres.packN_eq, ← hpres.packM_eq hl]
    exact hend
  refine ⟨t, t.readAll, ?_, hend.done, hend.encodeWith_eq hc hl, rfl⟩
  rw [runLine, hstart]
  exact congrArg (·, []) hwait

end Sys2Proof.Machine
end

section
/-! PROOFS. The field packer (40_field_packer.md R121 to R131): the value of a character, the check, the layout, and the packed
fields as integers, with their ranges. -/

namespace Sys2Proof.Machine

/-! ### What the five functions return (R121, R124, R126, R128, R130) -/

theorem exec_value (c : Byte) (s : State) : exec (.value c) s = .next { s with ret := .value (charValue c) } := rfl

theorem exec_check (callLen locLen : Nat) (s : State) :
    exec (.check callLen locLen) s =
      .next { s with ret := if checkLens callLen locLen then .ok else .invalidArgument } := rfl

theorem exec_layout (call : List Byte) (s : State) :
    exec (.layout call) s = .next { s with ret := .chars (layoutChars call.length (firstSix call)) } := rfl

theorem exec_packN (b : Chars6) (s : State) : exec (.packN b) s = .next { s with ret := .packedN (packNField b) } := rfl

theorem exec_packM (loc : Chars4) (p : Int) (s : State) :
    exec (.packM loc p) s = .next { s with ret := .packedM (packMField loc p) } := rfl

/-! ### The layout, branch by branch -/

theorem charAt6_firstSix (call : List Byte) {i : Nat} (h : i < 6) : charAt6 (firstSix call) i = call.getD i 0 :=
  charAt6_chars6 _ h

section Branches

variable {len : Nat} {c : Chars6}

/-- Branch A: a digit at index 1 (R126). -/
theorem charAt6_layoutChars_of_digit_one (hA : 2 ≤ len ∧ isDigit (charAt6 c 1) = true) {i : Nat} (hi : i < 6) :
    charAt6 (layoutChars len c) i = if 1 ≤ i ∧ i ≤ min len 5 then charAt6 c (i - 1) else 32 := by
  rw [layoutChars, if_pos hA, charAt6_chars6 _ hi]

/-- Branch B: no digit at index 1, a digit at index 2 (R126). -/
theorem charAt6_layoutChars_of_digit_two (hA : ¬ (2 ≤ len ∧ isDigit (charAt6 c 1) = true))
    (hB : 3 ≤ len ∧ isDigit (charAt6 c 2) = true) {i : Nat} (hi : i < 6) :
    charAt6 (layoutChars len c) i = if i < min len 6 then charAt6 c i else 32 := by
  rw [layoutChars, if_neg hA, if_pos hB, charAt6_chars6 _ hi]

/-- Branch C: a digit at neither (R126). -/
theorem charAt6_layoutChars_of_no_digit (hA : ¬ (2 ≤ len ∧ isDigit (charAt6 c 1) = true))
    (hB : ¬ (3 ≤ len ∧ isDigit (charAt6 c 2) = true)) {i : Nat} (hi : i < 6) :
    charAt6 (layoutChars len c) i = 32 := by
  rw [layoutChars, if_neg hA, if_neg hB, charAt6_chars6 _ hi]

/-- The length enters only by the tests for 2 and 3 and by its minima with 5 and 6. -/
theorem layoutChars_of_six_le (h : 6 ≤ len) : layoutChars len c = layoutChars 6 c := by
  have h2 : 2 ≤ len := by omega
  have h3 : 3 ≤ len := by omega
  have h5 : 5 ≤ len := by omega
  simp [layoutChars, h, h2, h3, h5]

end Branches

/-- Settles O7: one lemma per branch, with the callsign's own characters in place of the six that are read of it. -/
theorem layoutBranches : Obligations.LayoutBranches := by
  unfold Obligations.LayoutBranches
  refine ⟨fun call s _ => ⟨_, exec_layout call s, ?_⟩, fun len c h => layoutChars_of_six_le h⟩
  rw [← charAt6_firstSix call (i := 1) (by decide), ← charAt6_firstSix call (i := 2) (by decide)]
  refine ⟨fun hA i hi => ?_, fun hA hB i hi => ?_, fun hA hB i hi => charAt6_layoutChars_of_no_digit hA hB hi⟩
  · rw [charAt6_layoutChars_of_digit_one hA hi, charAt6_firstSix call (by omega)]
  · rw [charAt6_layoutChars_of_digit_two hA hB hi, charAt6_firstSix call hi]

/-! ### The packed callsign -/

/-- A word made of an integer stands for it modulo the word's size (R128, R130). -/
theorem natCast_toNat_ofInt (w : Nat) (x : Int) : ((BitVec.ofInt w x).toNat : Int) = x % 2 ^ w := by
  rw [BitVec.toNat_ofInt, Int.natCast_pow, Int.toNat_of_nonneg (Int.emod_nonneg _ (by positivity))]
  rfl

theorem packNInt_eq (b : Chars6) :
    packNInt b =
      (((((charValue b.c0 : Int) * 36 + charValue b.c1) * 10 + charValue b.c2) * 27 + charValue b.c3 - 10) * 27
        + charValue b.c4 - 10) * 27 + charValue b.c5 - 10 := rfl

theorem toNat_packNField (b : Chars6) : ((packNField b).toNat : Int) = packNInt b % 2 ^ 28 :=
  natCast_toNat_ofInt 28 _

/-- Settles O8: the word is the integer modulo 2^28, and the integer is the formula. -/
theorem packNFormula : Obligations.PackNFormula := by
  unfold Obligations.PackNFormula
  intro b s
  refine ⟨_, exec_packN b s, ?_⟩
  rw [toNat_packNField, packNInt_eq]

/-- The formula grows with each character value, so the values 0 and 36 bound it (R129). -/
theorem packNInt_mem_range (b : Chars6) : -7570 ≤ packNInt b ∧ packNInt b ≤ 262905830 := by
  have h0 := charValue_le b.c0
  have h1 := charValue_le b.c1
  have h2 := charValue_le b.c2
  have h3 := charValue_le b.c3
  have h4 := charValue_le b.c4
  have h5 := charValue_le b.c5
  rw [packNInt_eq]
  omega

/-- Settles O9: the lower end is six characters without a value, or 0; the upper one is six spaces. -/
theorem packNRange : Obligations.PackNRange := by
  unfold Obligations.PackNRange
  exact ⟨packNInt_mem_range, by decide, by decide⟩

/-! ### The packed locator and power -/

theorem packM1_eq (loc : Chars4) :
    packM1 loc =
      (179 - 10 * ((loc.c0.toNat : Int) - 65) - ((loc.c2.toNat : Int) - 48)) * 180
        + 10 * ((loc.c1.toNat : Int) - 65) + ((loc.c3.toNat : Int) - 48) := rfl

theorem toNat_packMField (loc : Chars4) (p : Int) : ((packMField loc p).toNat : Int) = packMInt loc p % 2 ^ 22 :=
  natCast_toNat_ofInt 22 _

/-- Settles O10: the word is the integer modulo 2^22, and the integer is the formula. -/
theorem packMFormula : Obligations.PackMFormula := by
  unfold Obligations.PackMFormula
  intro loc p s
  refine ⟨_, exec_packM loc p s, ?_⟩
  rw [toNat_packMField, packMInt, packM1_eq]

/-- `M1` of any four codes (R131). -/
theorem packM1_mem_range (loc : Chars4) : -347738 ≤ packM1 loc ∧ packM1 loc ≤ 159967 := by
  have h0 := loc.c0.isLt
  have h1 := loc.c1.isLt
  have h2 := loc.c2.isLt
  have h3 := loc.c3.isLt
  rw [packM1_eq]
  omega

theorem isDigit_iff (c : Byte) : isDigit c = true ↔ 48 ≤ c.toNat ∧ c.toNat ≤ 57 := decide_eq_true_iff

/-- `M1` of a well-formed locator: letters A to R, then digits (R131). -/
theorem packM1_mem_range_of_wellFormed {loc : Chars4} (h0 : 65 ≤ loc.c0.toNat ∧ loc.c0.toNat ≤ 82)
    (h1 : 65 ≤ loc.c1.toNat ∧ loc.c1.toNat ≤ 82) (h2 : isDigit loc.c2 = true) (h3 : isDigit loc.c3 = true) :
    0 ≤ packM1 loc ∧ packM1 loc ≤ 32399 := by
  rw [isDigit_iff] at h2 h3
  rw [packM1_eq]
  omega

/-- The reduction modulo 2^22 does nothing to an integer that fits. -/
theorem toNat_packMField_of_fits {loc : Chars4} {p : Int} (h0 : 0 ≤ packMInt loc p) (h1 : packMInt loc p < 2 ^ 22) :
    ((packMField loc p).toNat : Int) = packMInt loc p := by
  rw [toNat_packMField, Int.emod_eq_of_lt h0 h1]

/-- Settles O11: the bounds of `M1`, times 128, plus those of the power and 64. -/
theorem packMRange : Obligations.PackMRange := by
  unfold Obligations.PackMRange
  intro loc p hp0 hp1
  have hM1 := packM1_mem_range loc
  refine ⟨hM1, ?_, fun h0 h0' h1 h1' h2 h3 hlow hhigh => ?_⟩
  · rw [packMInt]
    omega
  · have hW := packM1_mem_range_of_wellFormed ⟨h0, h0'⟩ ⟨h1, h1'⟩ h2 h3
    have hm : 64 ≤ packMInt loc p ∧ packMInt loc p ≤ 4147196 := by
      rw [packMInt]
      omega
    exact ⟨hm.1, hm.2, toNat_packMField_of_fits (by omega) (by omega)⟩

/-! ### The value of a character and the check of the lengths -/

/-- The classes of R98, in which `value` is defined, as ranges of codes. -/
theorem charValue_eq (c : Byte) :
    charValue c =
      if 48 ≤ c.toNat ∧ c.toNat ≤ 57 then c.toNat - 48
      else if 65 ≤ c.toNat ∧ c.toNat ≤ 90 then c.toNat - 65 + 10
      else if 97 ≤ c.toNat ∧ c.toNat ≤ 122 then c.toNat - 97 + 10
      else if c.toNat = 32 then 36
      else 0 := by
  simp only [charValue, isDigit, isUpper, isLower, isSpace, decide_eq_true_eq]

/-- Settles O5: no two classes share a code, so each is reached past the ones before it. -/
theorem valueOfEveryCode : Obligations.ValueOfEveryCode := by
  unfold Obligations.ValueOfEveryCode
  intro c s
  refine ⟨_, exec_value c s, fun h => ?digit, fun h => ?upper, fun h => ?lower, fun h => ?space,
    fun hdigit hupper hlower hspace => ?other, charValue_le c⟩ <;> rw [charValue_eq]
  case digit => rw [if_pos h]
  case upper => rw [if_neg (by omega), if_pos h]
  case lower => rw [if_neg (by omega), if_neg (by omega), if_pos h]
  case space => rw [if_neg (by omega), if_neg (by omega), if_neg (by omega), if_pos h]
  case other => rw [if_neg hdigit, if_neg hupper, if_neg hlower, if_neg hspace]

/-- Settles O6: the check is passed exactly by a callsign that is not empty and a locator of four. -/
theorem checkOfLengths : Obligations.CheckOfLengths := by
  unfold Obligations.CheckOfLengths
  intro callLen locLen s
  have hcheck := checkLens_eq_true callLen locLen
  refine ⟨fun h => ?_, fun hcall hloc => ?_⟩ <;> rw [exec_check]
  · rw [if_neg (by rw [hcheck]; omega)]
  · rw [if_pos (hcheck.2 ⟨hcall, hloc⟩)]

end Sys2Proof.Machine
end

section
/-! PROOFS. The convolutional encoder (41_conv_encoder.md R150 to R158): the parity of a word, the schedule, one step on the
registers, and the stream with its closed form, its linearity and its ends. -/

namespace Sys2Proof.Machine

/-! ### Exclusive-or over positions -/

@[simp] theorem xorAt_nil (x : Word) : xorAt x [] = false := rfl

@[simp] theorem xorAt_cons (x : Word) (i : Nat) (l : List Nat) : xorAt x (i :: l) = xor (x.getLsbD i) (xorAt x l) := by
  have hout : ∀ acc j, xor (xor (x.getLsbD i) acc) (x.getLsbD j) = xor (x.getLsbD i) (xor acc (x.getLsbD j)) :=
    fun acc j => Bool.xor_assoc _ acc _
  simpa [xorAt] using List.foldl_hom (l := l) (init := false) (xor (x.getLsbD i)) hout

theorem xorAt_xor (x y : Word) (l : List Nat) : xorAt (x ^^^ y) l = xor (xorAt x l) (xorAt y l) := by
  induction l with
  | nil => rfl
  | cons i l ih =>
    simp only [xorAt_cons, BitVec.getLsbD_xor, ih, Bool.xor_assoc, Bool.xor_left_comm]

/-- A mask keeps the positions of its own 1 bits. -/
theorem xorAt_and (x mask : Word) (l : List Nat) : xorAt (x &&& mask) l = xorAt x (l.filter fun i => mask.getLsbD i) := by
  induction l with
  | nil => rfl
  | cons i l ih => cases hi : mask.getLsbD i <;> simp [hi, ih]

theorem odd_sum_bits_eq_xorAt (x : Word) (l : List Nat) :
    decide ((l.map fun i => (x.getLsbD i).toNat).sum % 2 = 1) = xorAt x l := by
  induction l with
  | nil => rfl
  | cons i l ih =>
    rw [xorAt_cons, ← ih, List.map_cons, List.sum_cons]
    cases x.getLsbD i
    · simp only [Bool.toNat_false, Nat.zero_add, Bool.false_xor]
    · simp only [Bool.toNat_true, Bool.true_xor, ← decide_not, decide_eq_decide]
      omega

/-! ### The parity of a word (R152) -/

theorem parityBit_eq_xorAt (x : Word) : parityBit x = xorAt x (List.range 32) := odd_sum_bits_eq_xorAt x _

theorem popcount_eq_setBits (x : Word) : popcount x = setBits x := by
  rw [popcount, setBits, Finset.card_filter, Fin.sum_univ_def, ← List.map_coe_finRange_eq_range, List.map_map]
  congr 2
  funext i
  rw [Function.comp_apply]
  cases x.getLsbD i <;> rfl

theorem parityBit_eq_setBits (x : Word) : parityBit x = decide (setBits x % 2 = 1) := by
  rw [parityBit, popcount_eq_setBits]

theorem parityBit_xor (x y : Word) : parityBit (x ^^^ y) = xor (parityBit x) (parityBit y) := by
  simp only [parityBit_eq_xorAt, xorAt_xor]

theorem exec_parity (x : Word) (s : State) : exec (.parity x) s = .next { s with ret := .bit (parityBit x) } := rfl

/-- Settles O13: counting modulo 2 is the exclusive-or of the bits, and the latter is linear. -/
theorem parityOfWord : Obligations.ParityOfWord := by
  unfold Obligations.ParityOfWord
  intro x s
  exact ⟨parityBit x, exec_parity x s, parityBit_eq_setBits x, parityBit_eq_xorAt x, parityBit_xor x,
    by decide, by decide⟩

/-! ### The two generators (R154, R157) -/

theorem flagP0_eq_setBits (r : Word) : flagP0 r = decide (setBits (r &&& 0xF2D05351) % 2 = 1) := parityBit_eq_setBits _

theorem flagP1_eq_setBits (r : Word) : flagP1 r = decide (setBits (r &&& 0xE4613C47) % 2 = 1) := parityBit_eq_setBits _

theorem parityBit_and (r mask : Word) :
    parityBit (r &&& mask) = xorAt r ((List.range 32).filter fun i => mask.getLsbD i) := by
  rw [parityBit_eq_xorAt, xorAt_and]

theorem flagP0_xor (r r' : Word) : flagP0 (r ^^^ r') = xor (flagP0 r) (flagP0 r') := by
  simp only [flagP0, parityBit_and, xorAt_xor]

theorem flagP1_xor (r r' : Word) : flagP1 (r ^^^ r') = xor (flagP1 r) (flagP1 r') := by
  simp only [flagP1, parityBit_and, xorAt_xor]

theorem poly0_positions : ((List.range 32).filter fun i => Config.poly0.getLsbD i) =
    [0, 4, 6, 8, 9, 12, 14, 20, 22, 23, 25, 28, 29, 30, 31] := by decide

theorem poly1_positions : ((List.range 32).filter fun i => Config.poly1.getLsbD i) =
    [0, 1, 2, 6, 10, 11, 12, 13, 16, 21, 22, 26, 29, 30, 31] := by decide

/-- Settles O17: each parity is over the 1 bits of its mask. -/
theorem generatorTaps : Obligations.GeneratorTaps := by
  unfold Obligations.GeneratorTaps
  intro r
  constructor
  · rw [flagP0, parityBit_and, poly0_positions]
  · rw [flagP1, parityBit_and, poly1_positions]

/-! ### One step on the registers (R151, R154) -/

theorem shiftIn_eq_shiftConcat (r : Word) (b : Bool) : shiftIn r b = r.shiftConcat b := by
  apply BitVec.eq_of_getLsbD_eq
  intro i hi
  rw [BitVec.getLsbD_shiftConcat, shiftIn, BitVec.getLsbD_or, BitVec.getLsbD_shiftLeft]
  cases i <;> cases b <;> simp [hi]

theorem toNat_shiftIn (r : Word) (b : Bool) : (shiftIn r b).toNat = (2 * r.toNat + b.toNat) % 2 ^ 32 := by
  rw [shiftIn_eq_shiftConcat, BitVec.toNat_shiftConcat, Nat.shiftLeft_eq, Nat.pow_one, Nat.mul_comm]

theorem getLsbD_shiftIn_zero (r : Word) (b : Bool) : (shiftIn r b).getLsbD 0 = b := by
  rw [shiftIn_eq_shiftConcat, BitVec.getLsbD_shiftConcat]
  rfl

theorem getLsbD_shiftIn_succ (r : Word) (b : Bool) {i : Nat} (hi : i + 1 < 32) :
    (shiftIn r b).getLsbD (i + 1) = r.getLsbD i := by
  rw [shiftIn_eq_shiftConcat, BitVec.getLsbD_shiftConcat, decide_eq_true hi]
  rfl

theorem shiftIn_xor (r r' : Word) (b b' : Bool) : shiftIn (r ^^^ r') (xor b b') = shiftIn r b ^^^ shiftIn r' b' := by
  apply BitVec.eq_of_getLsbD_eq
  intro i hi
  cases i with
  | zero => simp only [BitVec.getLsbD_xor, getLsbD_shiftIn_zero]
  | succ i => simp only [BitVec.getLsbD_xor, getLsbD_shiftIn_succ _ _ hi]

theorem exec_cestep (b : Bool) (s : State) :
    exec (.cestep b) s = .next { s with
      reg := shiftIn s.reg b, p0 := flagP0 (shiftIn s.reg b), p1 := flagP1 (shiftIn s.reg b) } := rfl

/-- Settles O16: the register after the step is the shifted one, and both parities are of it. -/
theorem encoderStep : Obligations.EncoderStep := by
  unfold Obligations.EncoderStep
  intro b s
  refine ⟨shiftIn s.reg b, ?_, toNat_shiftIn s.reg b⟩
  rw [exec_cestep, flagP0_eq_setBits, flagP1_eq_setBits]

theorem exec_ceinit (s : State) : exec .ceinit s = .next { s with reg := 0 } := rfl

theorem exec_ilinit (s : State) : exec .ilinit s = .next { s with cnt := 0 } := rfl

/-- Settles O21: each initialisation writes its own register and no other. -/
theorem initialisesRegisterAndCounter : Obligations.InitialisesRegisterAndCounter := by
  unfold Obligations.InitialisesRegisterAndCounter
  exact fun s => ⟨exec_ceinit s, exec_ilinit s⟩

/-! ### The schedule (R153) -/

section Schedule

variable (n : PackedN) (m : PackedM) {k : Nat}

theorem schedBit_of_le_27 (h : k ≤ 27) : schedBit n m k = some (n.getLsbD (27 - k)) := if_pos h

theorem schedBit_of_le_49 (h : 28 ≤ k) (h' : k ≤ 49) : schedBit n m k = some (m.getLsbD (21 - (k - 28))) := by
  rw [schedBit, if_neg (by omega), if_pos h']

theorem schedBit_of_tail (h : 50 ≤ k) (h' : k ≤ 80) : schedBit n m k = some false := by
  rw [schedBit, if_neg (by omega), if_neg (by omega), if_pos h']

theorem schedBit_of_gt (h : 80 < k) : schedBit n m k = none := by
  rw [schedBit, if_neg (by omega), if_neg (by omega), if_neg (by omega)]

theorem exec_bitsched_of_le (h : k ≤ 80) (s : State) :
    exec (.bitsched n m k) s = .next { s with ret := .bit ((schedBit n m k).getD false) } := by
  rw [← schedBitOrFree_of_le h s.freeCount, exec, execBitsched, schedFreeTaken_of_le h]
  rfl

theorem schedFreeTaken_of_gt (h : 80 < k) : schedFreeTaken k = 1 := if_neg (by omega)

theorem exec_bitsched_of_gt (h : 80 < k) (s : State) :
    exec (.bitsched n m k) s =
      .next { s with ret := .bit (Config.freeBit s.freeCount), freeCount := s.freeCount + 1 } := by
  rw [exec, execBitsched, schedBitOrFree, schedBit_of_gt n m h, schedFreeTaken_of_gt h]
  rfl

/-- The schedule's bit, 0 above 80, is linear in the two fields. -/
theorem schedBit_xor (n' : PackedN) (m' : PackedM) (k : Nat) :
    (schedBit (n ^^^ n') (m ^^^ m') k).getD false = xor ((schedBit n m k).getD false) ((schedBit n' m' k).getD false) := by
  simp only [schedBit]
  split_ifs <;> simp

end Schedule

/-- Settles O14: the three ranges of the schedule. -/
theorem bitSchedule : Obligations.BitSchedule := by
  unfold Obligations.BitSchedule
  intro n m k s hk
  refine ⟨_, exec_bitsched_of_le n m hk s, fun h => ?callsign, fun h h' => ?locator, fun h => ?tail⟩
  case callsign => rw [schedBit_of_le_27 n m h, Option.getD_some]
  case locator => rw [schedBit_of_le_49 n m h h', Option.getD_some]
  case tail => rw [schedBit_of_tail n m h hk, Option.getD_some]

/-- Everything SHIFT can do (R220), the free values of log entry 10 included. -/
theorem exec_shift (s : State) :
    exec .shift s = .next { s with
      reg := shiftIn s.reg (schedBitOrFree s.n s.m s.k.toNat s.freeCount)
      p0 := flagP0 (shiftIn s.reg (schedBitOrFree s.n s.m s.k.toNat s.freeCount))
      p1 := flagP1 (shiftIn s.reg (schedBitOrFree s.n s.m s.k.toNat s.freeCount))
      k := (s.tookFree (schedFreeTaken s.k.toNat)).incK.k
      ph := .addr
      freeCount := (s.tookFree (schedFreeTaken s.k.toNat)).incK.freeCount } := by
  simp only [exec, execShift, State.ceStep, State.tookFree, State.incK, State.goto]
  rfl

/-- Settles O15: the free bit is shifted in as any other. -/
theorem outsideScheduleRuns : Obligations.OutsideScheduleRuns := by
  unfold Obligations.OutsideScheduleRuns
  constructor
  · exact fun n m k s h => ⟨_, exec_bitsched_of_gt n m h s⟩
  · intro s _
    have hshift := exec_shift s
    rw [flagP0_eq_setBits, flagP1_eq_setBits] at hshift
    exact ⟨_, _, _, _, hshift, toNat_shiftIn s.reg _, fun h => if_pos h⟩

/-! ### The stream (R150, R155 to R158) -/

section Stream

variable (n : PackedN) (m : PackedM)

/-- `REG_{k-1}` of R150, with `REG_{-1} = 0`: the register before step `k`. -/
def regBefore : Nat → Word
  | 0 => 0
  | k + 1 => convReg n m k

theorem convReg_eq_shiftIn (k : Nat) : convReg n m k = shiftIn (regBefore n m k) ((schedBit n m k).getD false) := by
  cases k <;> rfl

theorem convFrom_succ (count k : Nat) :
    convFrom n m (count + 1) k (regBefore n m k) =
      flagP0 (convReg n m k) :: flagP1 (convReg n m k) :: convFrom n m count (k + 1) (regBefore n m (k + 1)) := by
  simp only [convFrom, ← convReg_eq_shiftIn]
  rfl

/-- The `i`-th pair of what is emitted from step `k` on is that of step `k + i`. -/
theorem getElem?_convFrom {count i : Nat} (h : i < count) (k : Nat) :
    (convFrom n m count k (regBefore n m k))[2 * i]? = some (flagP0 (convReg n m (k + i))) ∧
    (convFrom n m count k (regBefore n m k))[2 * i + 1]? = some (flagP1 (convReg n m (k + i))) := by
  induction i generalizing count k with
  | zero =>
    obtain ⟨count, rfl⟩ := Nat.exists_eq_add_of_lt h
    rw [Nat.zero_add, convFrom_succ]
    exact ⟨rfl, rfl⟩
  | succ i ih =>
    obtain ⟨count, rfl⟩ : ∃ c, count = c + 1 := ⟨count - 1, by omega⟩
    rw [convFrom_succ, Nat.mul_succ, Nat.add_comm i 1, ← Nat.add_assoc]
    exact ih (by omega) (k + 1)

theorem conv_getElem?_pair {k : Nat} (h : k ≤ 80) :
    (conv n m)[2 * k]? = some (flagP0 (convReg n m k)) ∧ (conv n m)[2 * k + 1]? = some (flagP1 (convReg n m k)) := by
  have hpair := getElem?_convFrom n m (count := Config.steps) (Nat.lt_succ_of_le h) 0
  rwa [Nat.zero_add] at hpair

theorem length_conv : (conv n m).length = 162 := length_convFrom n m Config.steps 0 0

/-- A bit moves up one position per step. -/
theorem getLsbD_convReg (k : Nat) {i : Nat} (hi : i < 32) :
    (convReg n m k).getLsbD i = if i ≤ k then (schedBit n m (k - i)).getD false else false := by
  rw [convReg_eq_shiftIn]
  induction k generalizing i with
  | zero =>
    cases i with
    | zero => exact getLsbD_shiftIn_zero _ _
    | succ i => rw [getLsbD_shiftIn_succ _ _ hi, if_neg (by omega)]; exact BitVec.getLsbD_zero
  | succ k ih =>
    cases i with
    | zero => exact getLsbD_shiftIn_zero _ _
    | succ i =>
      rw [getLsbD_shiftIn_succ _ _ hi, regBefore, convReg_eq_shiftIn, ih (by omega), Nat.add_sub_add_right]
      simp only [Nat.add_le_add_iff_right]

/-- Each step is linear in the fields and the register together. -/
theorem convFrom_xor (n' : PackedN) (m' : PackedM) (count k : Nat) (r r' : Word) :
    convFrom (n ^^^ n') (m ^^^ m') count k (r ^^^ r') =
      List.zipWith xor (convFrom n m count k r) (convFrom n' m' count k r') := by
  induction count generalizing k r r' with
  | zero => rfl
  | succ count ih =>
    simp only [convFrom, List.zipWith_cons_cons, schedBit_xor, shiftIn_xor, flagP0_xor, flagP1_xor, ih]

theorem conv_xor (n' : PackedN) (m' : PackedM) :
    conv (n ^^^ n') (m ^^^ m') = List.zipWith xor (conv n m) (conv n' m') :=
  convFrom_xor n m n' m' Config.steps 0 0 0

/-- The stream of `(0, 0)` is its own exclusive-or with itself. -/
theorem conv_zero : conv 0 0 = List.replicate 162 false := by
  calc conv 0 0 = List.zipWith xor (conv 0 0) (conv 0 0) := conv_xor 0 0 0 0
    _ = (conv 0 0).map fun _ => false := by simp only [List.zipWith_self, Bool.xor_self]
    _ = List.replicate 162 false := by rw [List.map_const', length_conv]

/-! ### The two ends of the stream (R158) -/

/-- Both masks have bit 0 set. -/
theorem flags_of_lowest_bit (b : Bool) :
    flagP0 (if b then 1 else 0) = b ∧ flagP1 (if b then 1 else 0) = b := by
  cases b <;> decide

/-- Both masks have bit 31 set. -/
theorem flags_of_highest_bit (b : Bool) :
    flagP0 (if b then 0x80000000 else 0) = b ∧ flagP1 (if b then 0x80000000 else 0) = b := by
  cases b <;> decide

theorem convReg_zero : convReg n m 0 = if n.getLsbD 27 then 1 else 0 := by
  simp [convReg, schedBit_of_le_27, shiftIn]

/-- The 31 tail bits have pushed out everything but the last data bit. -/
theorem convReg_last : convReg n m 80 = if m.getLsbD 0 then 0x80000000 else 0 := by
  apply BitVec.eq_of_getLsbD_eq
  intro i hi
  rw [getLsbD_convReg n m 80 hi, if_pos (by omega)]
  obtain rfl | hlt : i = 31 ∨ i < 31 := by omega
  · rw [schedBit_of_le_49 n m (by omega) (by omega)]
    cases m.getLsbD 0 <;> rfl
  · rw [schedBit_of_tail n m (by omega) (by omega)]
    have hlow : ∀ j < 31, (0x80000000 : Word).getLsbD j = false := by decide
    cases m.getLsbD 0
    · exact BitVec.getLsbD_zero.symm
    · exact (hlow i hlt).symm

/-- The first step holds one bit, at position 0. -/
theorem conv_first : (conv n m)[0]? = some (n.getLsbD 27) ∧ (conv n m)[1]? = some (n.getLsbD 27) := by
  have hpair := conv_getElem?_pair n m (k := 0) (by omega)
  obtain ⟨hp0, hp1⟩ := flags_of_lowest_bit (n.getLsbD 27)
  rw [convReg_zero, hp0, hp1] at hpair
  exact hpair

/-- The last step holds one bit, at position 31. -/
theorem conv_last : (conv n m)[160]? = some (m.getLsbD 0) ∧ (conv n m)[161]? = some (m.getLsbD 0) := by
  have hpair := conv_getElem?_pair n m (k := 80) (by omega)
  obtain ⟨hp0, hp1⟩ := flags_of_highest_bit (m.getLsbD 0)
  rw [convReg_last, hp0, hp1] at hpair
  exact hpair

end Stream

/-- Settles O18: a bit moves up one position per step, and each step emits its own pair. -/
theorem streamClosedForm : Obligations.StreamClosedForm := by
  unfold Obligations.StreamClosedForm
  exact fun n m => ⟨length_conv n m, fun k hk => ⟨fun _ hi => getLsbD_convReg n m k hi, conv_getElem?_pair n m hk⟩⟩

/-- Settles O19, by the linearity of the schedule, of the shift and of the parities. -/
theorem streamIsLinear : Obligations.StreamIsLinear := by
  unfold Obligations.StreamIsLinear
  exact ⟨fun n n' m m' => conv_xor n m n' m', conv_zero⟩

/-- Settles O20: the register holds one data bit after the first and after the last step, where both masks tap it. -/
theorem streamEnds : Obligations.StreamEnds := by
  unfold Obligations.StreamEnds
  intro n m
  exact ⟨convReg_last n m, (conv_first n m).1, (conv_first n m).2, conv_last n m⟩

end Sys2Proof.Machine
end

section
/-! PROOFS. The interleaver (42_interleaver.md): the reversal R171, one draw R174 and R175, the order of the draws R176 and R177,
and their end R178 and R179. -/

namespace Sys2Proof.Machine

/-! ### Reversal -/

/-- The weights of R171 are those of the reversed bits. -/
theorem rev8Bits_eq_reverse : ∀ x : Byte, rev8Bits x = x.reverse := by decide +kernel

theorem getLsbD_rev8Bits (x : Byte) {i : Nat} (h : i < 8) : (rev8Bits x).getLsbD i = x.getLsbD (7 - i) := by
  rw [rev8Bits_eq_reverse, BitVec.getLsbD_reverse, BitVec.getMsbD, decide_eq_true h, Bool.true_and]

/-- The weights add up to at most 255. -/
theorem toNat_rev8Bits (x : Byte) :
    (rev8Bits x).toNat = 128 * (x.getLsbD 0).toNat + 64 * (x.getLsbD 1).toNat + 32 * (x.getLsbD 2).toNat
      + 16 * (x.getLsbD 3).toNat + 8 * (x.getLsbD 4).toNat + 4 * (x.getLsbD 5).toNat + 2 * (x.getLsbD 6).toNat
      + (x.getLsbD 7).toNat := by
  have bit (i : Nat) : (x.getLsbD i).toNat ≤ 1 := Bool.toNat_le _
  rw [rev8Bits, BitVec.toNat_ofNat]
  refine Nat.mod_eq_of_lt ?_
  linarith [bit 0, bit 1, bit 2, bit 3, bit 4, bit 5, bit 6, bit 7]

/-- Settles O23: the weights are those of the reversed bits, and reversing twice changes nothing. -/
theorem byteReversal : Obligations.ByteReversal := by
  unfold Obligations.ByteReversal
  exact fun x s => ⟨rev8Bits x, rfl, fun _ hi => getLsbD_rev8Bits x hi, toNat_rev8Bits x, rev8Bits_rev8Bits x⟩

/-! ### One draw -/

theorem keeps_iff {c : Byte} : keeps c = true ↔ (rev8Bits c).toNat ≤ 161 := decide_eq_true_iff

theorem keeps_eq_false_iff {c : Byte} : keeps c = false ↔ 161 < (rev8Bits c).toNat := by
  rw [← Bool.not_eq_true, keeps_iff, Nat.not_le]

theorem exec_ilnext_of_draw {s : State} {a c : Byte} (h : draw s.cnt = some (a, c)) :
    exec .ilnext s = .next { s with ret := .byte a, cnt := c } := by
  change execIlnext s = _
  rw [execIlnext, h]

/-- R179: the counter 255 is refused. -/
theorem exec_ilnext_of_cnt_eq_255 {s : State} (h : s.cnt = 255) : exec .ilnext s = .refused .drawsExhausted := by
  change execIlnext s = _
  rw [execIlnext, h]
  rfl

/-- Settles O24: the value examined first is kept, or it is discarded and then the next one is kept. -/
theorem oneDraw : Obligations.OneDraw := by
  unfold Obligations.OneDraw
  intro s hne
  cases hk : keeps s.cnt with
  | true =>
    have hle := keeps_iff.1 hk
    exact ⟨_, _, exec_ilnext_of_draw (draw_of_keeps hk), hle, .inl ⟨hle, rfl, rfl⟩⟩
  | false =>
    have hnext := keeps_add_one hk
    have hdraw : draw s.cnt = some (rev8Bits (s.cnt + 1), s.cnt + 2) := by
      rw [draw_of_not_keeps hk hne, draw_of_keeps hnext, BitVec.add_assoc]
      rfl
    exact ⟨_, _, exec_ilnext_of_draw hdraw, keeps_iff.1 hnext, .inr ⟨keeps_eq_false_iff.1 hk, rfl, rfl⟩⟩

/-! ### The draws in order -/

/-- The kept ones of the `d` counter values from `c` on, in order (R174). -/
def keptFrom (c d : Nat) : List Nat := (List.range' c d).filter fun x => keeps (BitVec.ofNat 8 x)

/-- The counter values that the draws of an encode keep, in order (R176). -/
def keptValues : List Nat := keptFrom 0 255

theorem keptFrom_succ_of_keeps {c : Nat} (d : Nat) (h : keeps (BitVec.ofNat 8 c) = true) :
    keptFrom c (d + 1) = c :: keptFrom (c + 1) d := by
  simp [keptFrom, List.range'_succ, h]

theorem keptFrom_succ_of_not_keeps {c : Nat} (d : Nat) (h : keeps (BitVec.ofNat 8 c) = false) :
    keptFrom c (d + 1) = keptFrom (c + 1) d := by
  simp [keptFrom, List.range'_succ, h]

theorem keptFrom_zero_add (c d : Nat) : keptFrom 0 (c + d) = keptFrom 0 c ++ keptFrom c d := by
  rw [keptFrom, keptFrom, keptFrom, ← List.filter_append, ← List.range'_append_1, Nat.zero_add]

theorem length_keptFrom_zero (c : Nat) : (keptFrom 0 c).length = keptBelow c := by
  rw [keptFrom, keptBelow, List.range_eq_range']

theorem length_keptValues : keptValues.length = 162 := (length_keptFrom_zero 255).trans keptBelow_255

theorem mem_keptValues {c : Nat} : c ∈ keptValues ↔ c < 255 ∧ keeps (BitVec.ofNat 8 c) = true := by
  rw [keptValues, keptFrom, List.mem_filter, ← List.range_eq_range', List.mem_range]

theorem nodup_keptValues : keptValues.Nodup := List.Nodup.filter _ List.nodup_range'

/-- Draws that stay below the counter 255 return the reversals of the kept values they pass, one after the other. -/
theorem drawAddrs_eq_map_keptFrom {c d : Nat} (h : c + d ≤ 255) :
    drawAddrs (keptFrom c d).length (BitVec.ofNat 8 c) = (keptFrom c d).map fun x => rev8Bits (BitVec.ofNat 8 x) := by
  induction d generalizing c with
  | zero => rfl
  | succ d ih =>
    have hrest := ih (c := c + 1) (by omega)
    rw [BitVec.ofNat_add] at hrest
    cases hk : keeps (BitVec.ofNat 8 c) with
    | true =>
      rw [keptFrom_succ_of_keeps d hk, List.length_cons, List.map_cons, drawAddrs_of_keeps _ hk]
      exact congrArg _ hrest
    | false =>
      have hne : BitVec.ofNat 8 c ≠ 255 := by bv_omega
      rw [keptFrom_succ_of_not_keeps d hk, drawAddrs_of_not_keeps _ hk hne]
      exact hrest

/-- The addresses of an encode are the reversals of the kept values (R176). -/
theorem addrSeq_eq_map_keptValues : addrSeq = keptValues.map fun x => rev8Bits (BitVec.ofNat 8 x) := by
  calc addrSeq = drawAddrs keptValues.length 0 := by rw [length_keptValues]; rfl
    _ = keptValues.map fun x => rev8Bits (BitVec.ofNat 8 x) := drawAddrs_eq_map_keptFrom (c := 0) le_rfl

/-- A kept value comes after the kept values below it. -/
theorem getElem?_keptValues {c : Nat} (h : c ∈ keptValues) : keptValues[keptBelow c]? = some c := by
  obtain ⟨hc, hk⟩ := mem_keptValues.1 h
  obtain ⟨d, hd⟩ := Nat.exists_eq_add_of_lt hc
  have hsplit : keptValues = keptFrom 0 c ++ c :: keptFrom (c + 1) d := by
    rw [← keptFrom_succ_of_keeps d hk, ← keptFrom_zero_add, keptValues, hd, Nat.add_assoc]
  rw [hsplit, ← length_keptFrom_zero, List.getElem?_append_right le_rfl, Nat.sub_self, List.getElem?_cons_zero]

theorem getElem?_addrSeq {c : Nat} (h : c ∈ keptValues) :
    addrSeq[keptBelow c]? = some (rev8Bits (BitVec.ofNat 8 c)) := by
  rw [addrSeq_eq_map_keptValues, List.getElem?_map, getElem?_keptValues h, Option.map_some]

/-- The address `a` is drawn at its own reversal (R177). -/
theorem rev8Bits_mem_keptValues {a : Nat} (h : a ≤ 161) : (rev8Bits (BitVec.ofNat 8 a)).toNat ∈ keptValues := by
  have hk : keeps (rev8Bits (BitVec.ofNat 8 a)) = true := by
    rw [keeps_iff, rev8Bits_rev8Bits, BitVec.toNat_ofNat]
    omega
  have hne := ne_255_of_keeps hk
  rw [mem_keptValues, BitVec.ofNat_toNat, BitVec.setWidth_eq]
  exact ⟨by bv_omega, hk⟩

theorem getElem?_addrSeq_drawOf {a : Nat} (h : a ≤ 161) : addrSeq[drawOf a]? = some (BitVec.ofNat 8 a) := by
  rw [drawOf, getElem?_addrSeq (rev8Bits_mem_keptValues h), BitVec.ofNat_toNat, BitVec.setWidth_eq, rev8Bits_rev8Bits]

theorem length_addrSeq : addrSeq.length = 162 := by
  rw [addrSeq_eq_map_keptValues, List.length_map, length_keptValues]

/-- No address comes twice, because `rev8` is injective and the kept values are below 256. -/
theorem nodup_addrSeq : (addrSeq.map BitVec.toNat).Nodup := by
  rw [addrSeq_eq_map_keptValues]
  refine (nodup_keptValues.map_on ?_).map BitVec.toNat_injective
  intro x hx y hy hxy
  have hx255 := (mem_keptValues.1 hx).1
  have hy255 := (mem_keptValues.1 hy).1
  have hbytes := rev8Bits_injective hxy
  bv_omega

theorem mem_addrSeq_iff {a : Nat} : a ∈ addrSeq.map BitVec.toNat ↔ a ≤ 161 := by
  constructor
  · rw [addrSeq_eq_map_keptValues, List.map_map, List.mem_map]
    rintro ⟨c, hc, rfl⟩
    exact keeps_iff.1 (mem_keptValues.1 hc).2
  · intro h
    have hmem := List.mem_map_of_mem (f := BitVec.toNat) (List.mem_of_getElem? (getElem?_addrSeq_drawOf h))
    rwa [BitVec.toNat_ofNat, Nat.mod_eq_of_lt (by omega)] at hmem

/-- Draw `j` finds the kept value that has `j` kept values below it (R177). -/
theorem exists_mem_keptValues {j : Nat} (h : j < 162) : ∃ c ∈ keptValues, keptBelow c = j := by
  have hj : j < keptValues.length := by rwa [length_keptValues]
  have hc := List.getElem_mem hj
  have hsame : keptValues[j]? = keptValues[keptBelow keptValues[j]]? := by
    rw [getElem?_keptValues hc, List.getElem?_eq_getElem hj]
  exact ⟨_, hc, ((List.getElem?_inj hj nodup_keptValues).1 hsame).symm⟩

/-- Settles O26: the addresses are the reversals of the kept values in order, and `rev8` is its own inverse. -/
theorem addressesAreAPermutation : Obligations.AddressesAreAPermutation := by
  unfold Obligations.AddressesAreAPermutation
  refine ⟨length_addrSeq, nodup_addrSeq, fun _ => mem_addrSeq_iff, fun j hj => ?_, fun _ ha => getElem?_addrSeq_drawOf ha⟩
  obtain ⟨c, hc, rfl⟩ := exists_mem_keptValues hj
  obtain ⟨hlt, hk⟩ := mem_keptValues.1 hc
  exact ⟨c, Nat.le_of_lt_succ hlt, hk, rfl, getElem?_addrSeq hc⟩

/-! ### The end of the draws -/

theorem keptBelow_mono : Monotone keptBelow :=
  monotone_nat_of_le_succ fun c => by rw [keptBelow_succ]; exact Nat.le_add_right _ _

/-- The last draw is at the counter 254, whose reversal is the address 127 (R178). -/
theorem keptBelow_254 : keptBelow 254 = 161 := by
  have hkept : keeps (BitVec.ofNat 8 254) = true := by decide
  have hlast := keptBelow_succ 254
  rw [keptBelow_255, if_pos hkept] at hlast
  omega

/-- Settles O25: the 162nd kept value is 254, so 162 values are kept below 255 and fewer below any smaller counter. -/
theorem drawAfterTheLastRefused : Obligations.DrawAfterTheLastRefused := by
  unfold Obligations.DrawAfterTheLastRefused
  refine ⟨fun _ => exec_ilnext_of_cnt_eq_255, fun c hc => ⟨fun h => ?_, ?_⟩⟩
  · by_contra hne
    have hle : keptBelow c ≤ keptBelow 254 := keptBelow_mono (by omega)
    rw [h, keptBelow_254] at hle
    omega
  · rintro rfl
    exact keptBelow_255

end Sys2Proof.Machine
end

section
/-! PROOFS. The assembler (43_assembler.md): `MA.SEED` R192, `MA.PLACE` R193, and `encode` R195 with its closed form R196. Each address
is drawn once, so each element is its sync bit with one parity bit added. -/

namespace Sys2Proof.Machine

/-! ### Seeding (R192, R67) -/

theorem exec_seed (s : State) : exec .seed s = .next { s with sym := seedMemory Config.sync } := rfl

theorem toNat_syncSym (sync : BitVec 162) (a : Nat) : (syncSym sync a).toNat = (sync.getLsbD a).toNat := by
  unfold syncSym
  cases sync.getLsbD a <;> rfl

theorem toNat_read_seedMemory (sync : BitVec 162) (a : Nat) :
    ((seedMemory sync).read a).toNat = if a ≤ 161 then (sync.getLsbD a).toNat else 0 := by
  rw [Memory.read_seedMemory, apply_ite BitVec.toNat, toNat_syncSym]
  rfl

/-- Settles O28: the memory left is the seeded one. -/
theorem seedCopiesSync : Obligations.SeedCopiesSync := by
  unfold Obligations.SeedCopiesSync
  exact fun s => ⟨seedMemory Config.sync, exec_seed s, Memory.wf_seedMemory _, toNat_read_seedMemory _⟩

/-! ### Placing (R193, R65) -/

/-- A sum in 0..3 takes no free value. -/
theorem State.addElement_of_fits {s : State} {a : Nat} {p : Bool} (h : (s.sym.read a).toNat + 2 * p.toNat ≤ 3) :
    s.addElement a p = { s with sym := s.sym.addAt (Config.free 2 s.freeCount) a p } := by
  have hfits : fitsSym (s.sym.read a) p = true := decide_eq_true h
  simp [State.addElement, hfits]

theorem Memory.toNat_read_addAt_same {other : Sym} {m : Memory} {a : Nat} {p : Bool} (hm : m.wf = true)
    (ha : a ≤ Config.addrMax) (h : (m.read a).toNat + 2 * p.toNat ≤ 3) :
    ((m.addAt other a p).read a).toNat = (m.read a).toNat + 2 * p.toNat := by
  rw [Memory.read_addAt p hm ha, if_pos rfl, addParity_of_fits h]

theorem Memory.read_addAt_of_ne {a b : Nat} (other : Sym) (m : Memory) (p : Bool) (h : b ≠ a) :
    (m.addAt other a p).read b = m.read b :=
  Memory.read_write_of_ne m h

/-- Settles O29: the memory left is the old one with the bit added at the address. -/
theorem placeAddsParity : Obligations.PlaceAddsParity := by
  unfold Obligations.PlaceAddsParity
  intro s a p hwf ha hsum
  refine ⟨s.sym.addAt (Config.free 2 s.freeCount) a.toNat p, ?_, Memory.wf_addAt p hwf ha,
    Memory.toNat_read_addAt_same hwf ha hsum, fun b hb => Memory.read_addAt_of_ne _ s.sym p hb⟩
  rw [exec_place, placeAt_of_le ha, State.addElement_of_fits hsum]

/-! ### Placing a whole stream (R195, R196) -/

theorem assemble_cons (other : Sym) (m : Memory) (p : Bool) (ps : List Bool) (x : Byte) (xs : List Byte) :
    assemble other m (p :: ps) (x :: xs) = assemble other (m.addAt other x.toNat p) ps xs := rfl

/-- An element whose address does not come keeps its value. -/
theorem read_assemble_of_not_mem {other : Sym} {m : Memory} {ps : List Bool} {xs : List Byte} {a : Nat}
    (h : a ∉ xs.map BitVec.toNat) : (assemble other m ps xs).read a = m.read a := by
  induction ps generalizing m xs with
  | nil => cases xs <;> rfl
  | cons p ps ih =>
    cases xs with
    | nil => rfl
    | cons x xs =>
      obtain ⟨hne, hrest⟩ : a ≠ x.toNat ∧ a ∉ xs.map BitVec.toNat := by simpa [not_or] using h
      rw [assemble_cons, ih hrest, Memory.read_addAt_of_ne other m p hne]

/-- Where no address comes twice, the element at the `j`-th address has the `j`-th parity bit added and no other. -/
theorem read_assemble_of_getElem? {other : Sym} {m : Memory} {ps : List Bool} {xs : List Byte} {j : Nat} {d : Bool}
    {x : Byte} (hm : m.wf = true) (hnodup : (xs.map BitVec.toNat).Nodup) (hmax : ∀ a ∈ xs.map BitVec.toNat, a ≤ Config.addrMax)
    (hd : ps[j]? = some d) (hx : xs[j]? = some x) :
    (assemble other m ps xs).read x.toNat = addParity other (m.read x.toNat) d := by
  induction ps generalizing m xs j with
  | nil => simp at hd
  | cons p ps ih =>
    cases xs with
    | nil => simp at hx
    | cons y ys =>
      obtain ⟨hfresh, hnodup'⟩ := List.nodup_cons.1 hnodup
      obtain ⟨hy, hmax'⟩ := List.forall_mem_cons.1 hmax
      rw [assemble_cons]
      cases j with
      | zero =>
        obtain ⟨rfl, rfl⟩ : p = d ∧ y = x := by simpa using And.intro hd hx
        rw [read_assemble_of_not_mem hfresh, Memory.read_addAt p hm hy, if_pos rfl]
      | succ j =>
        have hne : x.toNat ≠ y.toNat := fun e =>
          hfresh (e ▸ List.mem_map_of_mem (List.mem_of_getElem? hx))
        rw [ih (Memory.wf_addAt p hm hy) hnodup' hmax' hd hx, Memory.read_addAt_of_ne other m p hne]

/-- The draw that returns an address has its parity bit: the stream is as long as the sequence of addresses. -/
theorem exists_getElem?_conv_drawOf (n : PackedN) (m : PackedM) {a : Nat} (ha : a ≤ 161) :
    ∃ d, (conv n m)[drawOf a]? = some d := by
  have hlt : drawOf a < addrSeq.length := (List.getElem?_eq_some_iff.1 (getElem?_addrSeq_drawOf ha)).1
  rw [length_addrSeq, ← length_conv n m] at hlt
  exact ⟨_, List.getElem?_eq_getElem hlt⟩

/-- Each element of an encode is its sync bit plus twice the parity bit of the draw that returns its address. -/
theorem toNat_read_assembleFields (sync : BitVec 162) (other : Sym) {n : PackedN} {m : PackedM} {a : Nat} {d : Bool}
    (ha : a ≤ 161) (hd : (conv n m)[drawOf a]? = some d) :
    ((assembleFields sync other n m).read a).toNat = (sync.getLsbD a).toNat + 2 * d.toNat := by
  have hread := read_assemble_of_getElem? (other := other) (Memory.wf_seedMemory sync) nodup_addrSeq
    (fun _ => mem_addrSeq_iff.1) hd (getElem?_addrSeq_drawOf ha)
  rw [BitVec.toNat_ofNat, Nat.mod_eq_of_lt (by omega)] at hread
  have hseed : ((seedMemory sync).read a).toNat = (sync.getLsbD a).toNat := by
    rw [toNat_read_seedMemory, if_pos ha]
  have hfits : ((seedMemory sync).read a).toNat + 2 * d.toNat ≤ 3 := by
    have hsync := Bool.toNat_le (sync.getLsbD a)
    have hbit := Bool.toNat_le d
    omega
  rw [assembleFields, hread, addParity_of_fits hfits, hseed]

/-! ### The whole function (R195) -/

theorem encodeWith_of_invalid {call loc : List Byte} (h : call = [] ∨ loc.length ≠ 4) (sync : BitVec 162) (other : Sym)
    (p : Int) : encodeWith sync other call loc p = none := by
  rw [encodeWith, packStrings_of_invalid h]

theorem getElem?_map_read_range (m : Memory) {a : Nat} (ha : a ≤ 161) :
    ((List.range Config.nsym).map m.read)[a]? = some (m.read a) := by
  have hlt : a < Config.nsym := Nat.lt_succ_of_le ha
  rw [List.getElem?_map, List.getElem?_range hlt, Option.map_some]

theorem exec_encode_of_valid {call loc : List Byte} (hc : call ≠ []) (hl : loc.length = 4) (p : Int) (s : State) :
    exec (.encode call loc p) s = .next { s with ret := .message ((List.range Config.nsym).map
      (assembleFields Config.sync (Config.free 2 s.freeCount) (packedCall call) (packedLoc loc p)).read) } := by
  rw [exec, execEncode, encodeWith_of_valid hc hl]
  rfl

theorem exec_encode_of_invalid {call loc : List Byte} (h : call = [] ∨ loc.length ≠ 4) (p : Int) (s : State) :
    exec (.encode call loc p) s = .next { s with ret := .invalidArgument } := by
  rw [exec, execEncode, encodeWith_of_invalid h]
  rfl

/-- Settles O35: the message lists the elements of the assembled buffer in address order. -/
theorem encodeClosedForm : Obligations.EncodeClosedForm := by
  unfold Obligations.EncodeClosedForm
  intro call loc p s hc hl
  refine ⟨_, exec_encode_of_valid hc hl p s, by simp [Config.nsym], fun a ha => ?_⟩
  obtain ⟨d, hd⟩ := exists_getElem?_conv_drawOf (packedCall call) (packedLoc loc p) ha
  exact ⟨_, d, getElem?_map_read_range _ ha, getElem?_addrSeq_drawOf ha, hd,
    toNat_read_assembleFields Config.sync _ ha hd⟩

/-- Settles O34: the check of the lengths fails before anything is computed. -/
theorem encodeRejects : Obligations.EncodeRejects := by
  unfold Obligations.EncodeRejects
  exact fun _ _ p s h => exec_encode_of_invalid h p s

end Sys2Proof.Machine
end

section
/-! PROOFS. The five micro-operations (44_sequencer_host.md R218 to R222): what each writes into the registers, and that it leaves
every other register as it is. -/

namespace Sys2Proof.Machine

/-! ### PACK and SEED -/

theorem exec_pack (s : State) :
    exec .pack s = .next { s with
      buf := layoutChars s.callLen.toNat s.call
      n := packNField (layoutChars s.callLen.toNat s.call)
      m := packMField s.loc s.pwr.toInt
      ph := .seed } := rfl

/-- Settles O12: the two packed words are the integers of R128 and R130, modulo 2^28 and 2^22. -/
theorem packOperation : Obligations.PackOperation := by
  unfold Obligations.PackOperation
  intro s
  refine ⟨_, _, _, exec_pack s, rfl, ?callsign, ?locator⟩
  case callsign => rw [toNat_packNField, packNInt_eq]
  case locator => rw [toNat_packMField, packMInt, packM1_eq]

theorem exec_seedOp (s : State) :
    exec .seedOp s = .next { s with
      sym := seedMemory Config.sync, reg := 0, cnt := 0, k := 0, j := 0, ph := .shift } := rfl

/-- Settles O31: the memory left is the seeded one. -/
theorem seedOperation : Obligations.SeedOperation := by
  unfold Obligations.SeedOperation
  exact fun s => ⟨seedMemory Config.sync, exec_seedOp s, Memory.wf_seedMemory _, toNat_read_seedMemory _⟩

/-! ### SHIFT -/

/-- SHIFT within the schedule takes no free value (R153, R220). -/
theorem exec_shift_of_le {s : State} (hk : s.k.toNat ≤ 80) :
    exec .shift s = .next { s with
      reg := shiftIn s.reg ((schedBit s.n s.m s.k.toNat).getD false)
      p0 := flagP0 (shiftIn s.reg ((schedBit s.n s.m s.k.toNat).getD false))
      p1 := flagP1 (shiftIn s.reg ((schedBit s.n s.m s.k.toNat).getD false))
      k := s.k + 1
      ph := .addr } := by
  have hlt : s.k.toNat < 127 := by omega
  simp [exec_shift, schedBitOrFree_of_le hk, schedFreeTaken_of_le hk, hlt]

/-- Settles O22: the bit shifted in is that of the schedule's range, and both parities are of the shifted register. -/
theorem shiftOperation : Obligations.ShiftOperation := by
  unfold Obligations.ShiftOperation
  intro s hk
  have hshift := exec_shift_of_le hk
  rw [flagP0_eq_setBits, flagP1_eq_setBits] at hshift
  refine ⟨_, _, hshift, toNat_shiftIn s.reg _, fun h => ?callsign, fun h h' => ?locator, fun h => ?tail⟩
  case callsign => rw [schedBit_of_le_27 _ _ h, Option.getD_some]
  case locator =>
    rw [schedBit_of_le_49 _ _ h h', Option.getD_some, show 21 - (s.k.toNat - 28) = 49 - s.k.toNat by omega]
  case tail => rw [schedBit_of_tail _ _ h hk, Option.getD_some]

/-! ### ADDR -/

theorem exec_addr_of_keeps {s : State} (h : keeps s.cnt = true) :
    exec .addr s = .next { s with cnt := s.cnt + 1, addr := rev8Bits s.cnt, ph := .place } := if_pos h

theorem exec_addr_of_not_keeps {s : State} (h : keeps s.cnt = false) :
    exec .addr s = .next { s with cnt := s.cnt + 1, ph := .addr } := if_neg (by simp [h])

/-- Settles O27: ADDR latches the values that a draw keeps. -/
theorem addrOperation : Obligations.AddrOperation := by
  unfold Obligations.AddrOperation
  exact fun s => ⟨fun h => exec_addr_of_keeps (keeps_iff.2 h), fun h => exec_addr_of_not_keeps (keeps_eq_false_iff.2 h)⟩

/-! ### PLACE -/

/-- `P0` at an even `J`, `P1` at an odd one. -/
theorem State.placeBit_eq (s : State) : s.placeBit = if s.j.toNat % 2 = 0 then s.p0 else s.p1 := by
  rcases Nat.mod_two_eq_zero_or_one s.j.toNat with h | h
  · rw [if_pos h, State.placeBit_of_even h]
  · rw [if_neg (by omega), State.placeBit_of_odd h]

/-- ADDR after an even `J`; after an odd one DONE at `K` = 81, else SHIFT. -/
theorem State.afterPlace_eq (s : State) :
    s.afterPlace = if s.j.toNat % 2 = 0 then .addr else if s.k.toNat = 81 then .done else .shift := by
  rcases Nat.mod_two_eq_zero_or_one s.j.toNat with h | h
  · rw [if_pos h, State.afterPlace_of_even h]
  · rw [if_neg (by omega), State.afterPlace_of_odd h]
    rfl

theorem State.placeLatched_j (s : State) : s.placeLatched.j = s.j := by rw [State.placeLatched_frame]

/-- Everything PLACE can do (R222), the free values of log entries 10 and 11 included. -/
theorem exec_placeOp (s : State) :
    exec .placeOp s = .next { s with
      sym := s.placeLatched.sym
      j := s.placeLatched.incJ.j
      ph := s.afterPlace
      freeCount := s.placeLatched.incJ.freeCount } := by
  rw [exec, execPlaceOp, State.placeLatched_frame]
  rfl

/-- PLACE within the rules takes no free value (R65, R222). -/
theorem exec_placeOp_of_fits {s : State} (ha : s.addr.toNat ≤ Config.addrMax) (hj : s.j.toNat < 255)
    (h : (s.sym.read s.addr.toNat).toNat + 2 * s.placeBit.toNat ≤ 3) :
    exec .placeOp s = .next { s with
      sym := s.sym.addAt (Config.free 2 s.freeCount) s.addr.toNat s.placeBit
      j := s.j + 1
      ph := s.afterPlace } := by
  simp [exec_placeOp, State.placeLatched_of_le ha, State.addElement_of_fits h, hj]

/-- Settles O32: the memory left is the old one with the selected bit added at the latched address. -/
theorem placeOperation : Obligations.PlaceOperation := by
  unfold Obligations.PlaceOperation
  intro s hwf ha hj hsum
  rw [← s.placeBit_eq] at hsum ⊢
  rw [← s.afterPlace_eq]
  exact ⟨_, exec_placeOp_of_fits ha (by omega) hsum, Memory.wf_addAt _ hwf ha,
    Memory.toNat_read_addAt_same hwf ha hsum, fun b hb => Memory.read_addAt_of_ne _ s.sym _ hb⟩

/-- Settles O33: the buffer is written at the latched element or, where there is none, free. -/
theorem placeCompletesInEveryState : Obligations.PlaceCompletesInEveryState := by
  unfold Obligations.PlaceCompletesInEveryState
  intro s
  rw [← s.afterPlace_eq]
  refine ⟨_, _, _, exec_placeOp s, fun hj => ?count, fun ha b hb => ?element, fun ha => ?form⟩
  case count => rw [State.incJ_j, State.placeLatched_j, if_pos hj]
  case element => rw [State.placeLatched_of_le ha, State.addElement_sym, Memory.read_addAt_of_ne _ _ _ hb]
  case form =>
    obtain ⟨hle, -⟩ | ⟨-, hlost⟩ := s.placeLatched_cases
    · exact absurd ha (Nat.not_lt_of_le hle)
    · rw [hlost, State.loseSym_sym, State.wf_freeMemory]

end Sys2Proof.Machine
end

section
/-! PROOFS. The host commands and the wait phases (44_sequencer_host.md R211 to R214, R223), and which operation an edge runs
(R210). -/

namespace Sys2Proof.Machine

/-! ### The four commands -/

theorem exec_nop (s : State) : exec .nop s = .next s := rfl

theorem exec_rsvd3 (s : State) : exec .rsvd3 s = .next s := rfl

/-- Settles O36: neither command writes a register. -/
theorem nopChangesNothing : Obligations.NopChangesNothing := by
  unfold Obligations.NopChangesNothing
  exact fun s => ⟨exec_nop s, exec_rsvd3 s⟩

theorem exec_start_of_busy {s : State} (hb : s.busy = true) : exec .start s = .next s := if_pos hb

theorem exec_start_of_wait {s : State} (hb : s.busy = false) : exec .start s = startAccepted s := if_neg (by simp [hb])

theorem exec_start_of_valid {s : State} (hb : s.busy = false) (hc : s.ports.callLen.toNat ≠ 0)
    (hl : s.ports.locLen.toNat = 4) : exec .start s = .next s.latch := by
  rw [exec_start_of_wait hb, startAccepted, if_pos ((checkLens_eq_true _ _).2 ⟨hc, hl⟩)]

theorem exec_start_of_invalid {s : State} (hb : s.busy = false)
    (h : s.ports.callLen.toNat = 0 ∨ s.ports.locLen.toNat ≠ 4) : exec .start s = .next s.raiseInvalidArgument := by
  rw [exec_start_of_wait hb, startAccepted, if_neg (by rw [checkLens_eq_true]; omega)]

/-- Settles O37: the check decides between the latch and the error. -/
theorem startOperation : Obligations.StartOperation := by
  unfold Obligations.StartOperation
  exact fun s hb => ⟨exec_start_of_valid hb, exec_start_of_invalid hb⟩

theorem exec_clear_of_busy {s : State} (hb : s.busy = true) : exec .clear s = .next s := if_pos hb

theorem exec_clear_of_wait {s : State} (hb : s.busy = false) : exec .clear s = .next s.clearToIdle :=
  if_neg (by simp [hb])

/-- Settles O39: in IDLE with no error every output is low, the read port at every address. -/
theorem clearOperation : Obligations.ClearOperation := by
  unfold Obligations.ClearOperation
  exact fun s => ⟨fun hb => ⟨s.clearToIdle, exec_clear_of_wait hb, rfl, rfl, fun _ => rfl⟩, exec_clear_of_busy⟩

/-! ### The wait phases -/

/-- In a wait phase the host command is the operation of the word on `cmd` (R91, R223). -/
theorem hostCommand_of_wait {s : State} (hb : s.busy = false) :
    hostCommand s = exec (commandInstr (decodeCommand s.ports.cmd)) s := by
  unfold hostCommand
  rw [if_neg (by simp [hb])]
  cases decodeCommand s.ports.cmd with
  | nop => exact (exec_nop s).symm
  | start => exact (exec_start_of_wait hb).symm
  | clear => exact (exec_clear_of_wait hb).symm
  | rsvd3 => exact (exec_rsvd3 s).symm

theorem hostCommand_of_nop {s : State} (hb : s.busy = false) (hc : s.ports.cmd = 0 ∨ s.ports.cmd = 3) :
    hostCommand s = .next s := by
  rw [hostCommand_of_wait hb]
  rcases hc with hc | hc <;> rw [hc]
  · exact exec_nop s
  · exact exec_rsvd3 s

theorem hostCommand_of_start {s : State} (hb : s.busy = false) (hc : s.ports.cmd = 1) :
    hostCommand s = exec .start s := by
  rw [hostCommand_of_wait hb, hc]
  rfl

theorem hostCommand_of_clear {s : State} (hb : s.busy = false) (hc : s.ports.cmd = 2) :
    hostCommand s = .next s.clearToIdle := by
  rw [hostCommand_of_wait hb, hc]
  exact exec_clear_of_wait hb

theorem exec_waitPhase {i : Instr} (hi : i = .idle ∨ i = .done ∨ i = .err) (s : State) : exec i s = hostCommand s := by
  rcases hi with rfl | rfl | rfl <;> rfl

/-- Settles O41: a wait phase runs the host command, and the command word says which one that is. -/
theorem waitPhaseOperations : Obligations.WaitPhaseOperations := by
  unfold Obligations.WaitPhaseOperations
  intro s i hi hb
  rw [exec_waitPhase hi]
  exact ⟨hostCommand_of_nop hb,
    fun hc hcall hloc => (hostCommand_of_start hb hc).trans (exec_start_of_valid hb hcall hloc),
    fun hc hlens => (hostCommand_of_start hb hc).trans (exec_start_of_invalid hb hlens), hostCommand_of_clear hb⟩

/-! ### Which operation an edge runs -/

theorem State.advance_of_script_nil {s : State} (h : s.script = []) : s.advance = s := by
  rw [State.advance, h]
  change ({ s with script := [] } : State) = s
  rw [← h]

theorem State.advance_of_script_cons {s : State} {p : Ports} {rest : List Ports} (h : s.script = p :: rest) :
    s.advance = { s with ports := p, script := rest } := by
  simp [State.advance, h]

theorem decode_cmd (w : BitVec 2) : decode .command [w.setWidth 8] = .ok (commandInstr (decodeCommand w)) := by
  simpa only [code_decodeCommand] using decode_commandCode (decodeCommand w)

/-- In a wait phase an edge runs the operation of the command word (R210). -/
theorem step_of_command {s : State} (hr : s.ports.rst = false) (hb : s.busy = false) :
    step s = mapNext State.advance (exec (commandInstr (decodeCommand s.ports.cmd)) s) := by
  rw [step_of_wait hr hb, hostCommand_of_wait hb]

/-- Settles O1: phase code and command word decode to what the edge runs. -/
theorem stepRunsDecodedOperation : Obligations.StepRunsDecodedOperation := by
  unfold Obligations.StepRunsDecodedOperation
  exact fun s => ⟨step_of_rst, fun hr => ⟨_, decode_phaseCode s.ph, step_of_phase hr⟩,
    fun hr hb => ⟨_, decode_cmd s.ports.cmd, step_of_command hr hb⟩, State.advance_of_script_nil,
    fun _ _ => State.advance_of_script_cons⟩

/-- A command word is placed where a wait phase looks at it. -/
theorem busy_placeWord_command (s : State) (b : Byte) : (placeWord s .command b).busy = false := by
  change busyPhase (if s.busy then .idle else s.ph) = false
  split
  · rfl
  · exact Bool.eq_false_iff.2 ‹_›

/-- The step from a placed word runs what the decoder reads from it. -/
theorem step_placeWord (s : State) {f : Format} {b : Byte} {i : Instr} (h : decode f [b] = .ok i) :
    step (placeWord s f b) = mapNext State.advance (exec i (placeWord s f b)) := by
  cases f with
  | phase =>
    obtain rfl : phaseInstr (decodePhase (b.setWidth 3)) = i := Except.ok.inj h
    exact step_of_phase rfl
  | command =>
    obtain rfl : commandInstr (decodeCommand (b.setWidth 2)) = i := Except.ok.inj h
    exact step_of_command rfl (busy_placeWord_command s b)
  | rst =>
    rw [decode] at h
    split at h
    · obtain rfl := Except.ok.inj h
      exact step_of_rst ‹_›
    · cases h

/-- Settles O4: a table word that decodes is a placed word of its format. -/
theorem placedWordRuns : Obligations.PlacedWordRuns := by
  unfold Obligations.PlacedWordRuns
  intro s nbits w i h
  unfold decodeTableWord at h
  split at h
  next j hj =>
    obtain rfl := Option.some.inj h
    exact step_placeWord s hj
  next => cases h

/-! ### The end of a run -/

theorem step_of_nop {s : State} (hr : s.ports.rst = false) (hb : s.busy = false)
    (hc : s.ports.cmd = 0 ∨ s.ports.cmd = 3) : step s = .next s.advance := by
  rw [step_of_wait hr hb, hostCommand_of_nop hb hc, mapNext_next]

theorem EndOfRun.not_busy {s : State} (h : EndOfRun s) : s.busy = false := by
  rcases h with h | h <;> rw [State.busy, h] <;> rfl

/-- Settles O48: such an edge only moves the host on. -/
theorem endOfRunIsStable : Obligations.EndOfRunIsStable := by
  unfold Obligations.EndOfRunIsStable
  exact fun s h hr hc => ⟨s.advance, step_of_nop hr h.not_busy hc, h, rfl, fun _ => rfl⟩

/-! ### The ports while busy -/

/-- The state with other values on the input ports. -/
def State.withPorts (s : State) (q : Ports) : State := { s with ports := q }

theorem State.placeLatched_withPorts (s : State) (q : Ports) :
    (s.withPorts q).placeLatched = s.placeLatched.withPorts q := by
  obtain ⟨ha, h⟩ | ⟨ha, h⟩ := s.placeLatched_cases <;> rw [h]
  · exact if_pos ha
  · exact if_neg (Nat.not_le_of_lt ha)

/-- The operation of a busy phase does the same whatever is on the ports, and leaves them there (R214). -/
theorem exec_withPorts_of_busy {s : State} (hb : s.busy = true) (q : Ports) :
    exec (phaseInstr s.ph) (s.withPorts q) = mapNext (·.withPorts q) (exec (phaseInstr s.ph) s) := by
  cases hp : s.ph with
  | idle | done | err => simp [State.busy, hp, busyPhase] at hb
  | pack | seed => rfl
  | shift => simp only [phaseInstr, exec_shift, State.withPorts, mapNext_next]; rfl
  | addr =>
    cases hk : keeps s.cnt with
    | true => rw [phaseInstr, exec_addr_of_keeps hk]; exact exec_addr_of_keeps hk
    | false => rw [phaseInstr, exec_addr_of_not_keeps hk]; exact exec_addr_of_not_keeps hk
  | place =>
    rw [phaseInstr, exec_placeOp, exec_placeOp, State.placeLatched_withPorts]
    rfl

theorem mapNext_mapNext (f g : State → State) (o : Host.Outcome State Fault Refusal) :
    mapNext f (mapNext g o) = mapNext (f ∘ g) o := by
  cases o <;> rfl

/-- Settles O40: START and CLEAR leave a busy block alone, and its phase's operation does not look at the ports. -/
theorem busyIgnoresPorts : Obligations.BusyIgnoresPorts := by
  unfold Obligations.BusyIgnoresPorts
  intro s q hb
  refine ⟨exec_start_of_busy hb, exec_clear_of_busy hb, fun hr hq => ?_⟩
  have hstep : step (s.withPorts q) = mapNext State.advance (mapNext (·.withPorts q) (exec (phaseInstr s.ph) s)) := by
    rw [← exec_withPorts_of_busy hb]
    exact step_of_phase hq
  rw [show ({ s with ports := q } : State) = s.withPorts q from rfl, hstep, step_of_phase hr]
  simp only [mapNext_mapNext]
  rfl

end Sys2Proof.Machine
end

section
/-! PROOFS. One edge of the whole block (44_sequencer_host.md R210, R224, R225): everything an edge without reset can do, and from
that its totality, the phase transitions and the writer of each register. -/

namespace Sys2Proof.Machine

/-! ### Everything an edge can do -/

theorem step_of_exec {s u : State} {p : Phase} (hr : s.ports.rst = false) (hp : s.ph = p)
    (h : exec (phaseInstr p) s = .next u) : step s = .next u.advance := by
  rw [step_of_phase hr, hp, h, mapNext_next]

theorem step_of_hostCommand {s u : State} (hr : s.ports.rst = false) (hb : s.busy = false)
    (h : hostCommand s = .next u) : step s = .next u.advance := by
  rw [step_of_wait hr hb, h, mapNext_next]

theorem step_of_start_accepted {s : State} (hr : s.ports.rst = false) (hb : s.busy = false) (hc : s.ports.cmd = 1)
    (hcall : s.ports.callLen.toNat ≠ 0) (hloc : s.ports.locLen.toNat = 4) : step s = .next s.latch.advance :=
  step_of_hostCommand hr hb ((hostCommand_of_start hb hc).trans (exec_start_of_valid hb hcall hloc))

theorem step_of_start_rejected {s : State} (hr : s.ports.rst = false) (hb : s.busy = false) (hc : s.ports.cmd = 1)
    (hlens : s.ports.callLen.toNat = 0 ∨ s.ports.locLen.toNat ≠ 4) : step s = .next s.raiseInvalidArgument.advance :=
  step_of_hostCommand hr hb ((hostCommand_of_start hb hc).trans (exec_start_of_invalid hb hlens))

theorem step_of_clear {s : State} (hr : s.ports.rst = false) (hb : s.busy = false) (hc : s.ports.cmd = 2) :
    step s = .next s.clearToIdle.advance :=
  step_of_hostCommand hr hb (hostCommand_of_clear hb hc)

/-- The states that an edge without reset can leave before the host moves on, each with what makes the edge leave it. -/
inductive EdgeEffect (s : State) : State → Prop where
  /-- a wait phase under NOP or the reserved command, R211 -/
  | waited (hb : s.busy = false) (hc : s.ports.cmd = 0 ∨ s.ports.cmd = 3) : EdgeEffect s s
  /-- an accepted START that passes the check, R212 -/
  | started (hb : s.busy = false) (hc : s.ports.cmd = 1) (hcall : s.ports.callLen.toNat ≠ 0)
      (hloc : s.ports.locLen.toNat = 4) : EdgeEffect s s.latch
  /-- an accepted START that fails it, R212 and R243 -/
  | rejected (hb : s.busy = false) (hc : s.ports.cmd = 1)
      (hlens : s.ports.callLen.toNat = 0 ∨ s.ports.locLen.toNat ≠ 4) : EdgeEffect s s.raiseInvalidArgument
  /-- CLEAR in a wait phase, R213 -/
  | cleared (hb : s.busy = false) (hc : s.ports.cmd = 2) : EdgeEffect s s.clearToIdle
  /-- PACK, R218 -/
  | packed (hp : s.ph = .pack) : EdgeEffect s s.packFields
  /-- SEED, R219 -/
  | seeded (hp : s.ph = .seed) : EdgeEffect s (s.seedSym.ceInit.ilInit.clearCounts.goto .shift)
  /-- SHIFT, R220 -/
  | shifted (hp : s.ph = .shift) : EdgeEffect s
      ((((s.tookFree (schedFreeTaken s.k.toNat)).ceStep
        (schedBitOrFree s.n s.m s.k.toNat s.freeCount)).incK).goto .addr)
  /-- ADDR on a counter value that is kept, R221 -/
  | drawn (hp : s.ph = .addr) (hk : (rev8Bits s.cnt).toNat ≤ 161) :
      EdgeEffect s { s with cnt := s.cnt + 1, addr := rev8Bits s.cnt, ph := .place }
  /-- ADDR on a counter value that is discarded, R221 -/
  | skipped (hp : s.ph = .addr) (hk : 161 < (rev8Bits s.cnt).toNat) :
      EdgeEffect s { s with cnt := s.cnt + 1, ph := .addr }
  /-- PLACE, R222 -/
  | placed (hp : s.ph = .place) : EdgeEffect s (s.placeLatched.incJ.goto s.afterPlace)

theorem command_word_cases : ∀ w : BitVec 2, (w = 0 ∨ w = 3) ∨ w = 1 ∨ w = 2 := by decide

theorem step_edgeEffect_of_wait {s : State} (hr : s.ports.rst = false) (hb : s.busy = false) :
    ∃ u, EdgeEffect s u ∧ step s = .next u.advance := by
  obtain hc | hc | hc := command_word_cases s.ports.cmd
  · exact ⟨_, .waited hb hc, step_of_nop hr hb hc⟩
  · obtain ⟨hcall, hloc, -⟩ | ⟨hlens, -⟩ := startAccepted_cases s
    · exact ⟨_, .started hb hc hcall hloc, step_of_start_accepted hr hb hc hcall hloc⟩
    · exact ⟨_, .rejected hb hc hlens, step_of_start_rejected hr hb hc hlens⟩
  · exact ⟨_, .cleared hb hc, step_of_clear hr hb hc⟩

/-- Every edge without reset has one of the effects, and then the host moves on. -/
theorem step_edgeEffect {s : State} (hr : s.ports.rst = false) : ∃ u, EdgeEffect s u ∧ step s = .next u.advance := by
  cases hp : s.ph with
  | idle | done | err => exact step_edgeEffect_of_wait hr (by rw [State.busy, hp]; rfl)
  | pack => exact ⟨_, .packed hp, step_of_pack hr hp⟩
  | seed => exact ⟨_, .seeded hp, step_of_seed hr hp⟩
  | shift => exact ⟨_, .shifted hp, step_of_exec hr hp rfl⟩
  | addr =>
    cases hk : keeps s.cnt with
    | true => exact ⟨_, .drawn hp (keeps_iff.1 hk), step_of_addr_kept hr hp hk⟩
    | false => exact ⟨_, .skipped hp (keeps_eq_false_iff.1 hk), step_of_addr_skipped hr hp hk⟩
  | place => exact ⟨_, .placed hp, step_of_place hr hp⟩

theorem edgeEffect_of_step {s t : State} (hr : s.ports.rst = false) (ht : step s = .next t) :
    ∃ u, EdgeEffect s u ∧ t = u.advance := by
  obtain ⟨u, hu, hs⟩ := step_edgeEffect hr
  exact ⟨u, hu, Host.Outcome.next.inj (ht.symm.trans hs)⟩

/-! ### Totality (R210) -/

theorem exists_step_eq_next (s : State) : ∃ t, step s = .next t := by
  cases hr : s.ports.rst with
  | true => exact ⟨_, step_of_rst hr⟩
  | false =>
    obtain ⟨u, -, hs⟩ := step_edgeEffect hr
    exact ⟨_, hs⟩

/-- Settles O52: the step is a function, and each of its effects is a next state. -/
theorem stepIsTotal : Obligations.StepIsTotal := by
  unfold Obligations.StepIsTotal
  intro s
  obtain ⟨t, ht⟩ := exists_step_eq_next s
  exact ⟨t, ht, fun u hu => Host.Outcome.next.inj (hu.symm.trans ht)⟩

/-- Under the invariant SHIFT is within the schedule, and PLACE adds to an element that exists and holds 0 or 1. -/
theorem EdgeEffect.freeCount_eq {s u : State} (hu : EdgeEffect s u) (h : Inv s) : u.freeCount = s.freeCount := by
  cases hu with
  | waited | started | rejected | cleared | packed | seeded | drawn | skipped => rfl
  | shifted hp =>
    obtain ⟨hk, -⟩ := (countInv_shift hp).1 h.counts
    have hle : s.k.toNat ≤ 80 := Nat.le_of_lt_succ hk
    have hlt : s.k.toNat < 127 := by omega
    simp [schedFreeTaken_of_le hle, hlt]
  | placed hp =>
    obtain ⟨hplacing, -⟩ := (countInv_place hp).1 h.counts
    have hlt : s.j.toNat < 255 := Nat.lt_trans hplacing.j_lt (by decide)
    rw [h.place_eq_placed hp]
    simp [State.placed, h.fitsSym_place hp, hlt]

/-- Settles O53: what takes a free value outside a reset is what the invariant excludes. -/
theorem stepCompletesUnderInvariant : Obligations.StepCompletesUnderInvariant := by
  unfold Obligations.StepCompletesUnderInvariant
  intro s h
  obtain ⟨t, ht⟩ := exists_step_eq_next s
  refine ⟨t, ht, fun hr => ?_⟩
  obtain ⟨u, hu, rfl⟩ := edgeEffect_of_step hr ht
  exact hu.freeCount_eq h

/-! ### The phase transitions (R224) -/

theorem ph_of_step_eq {s t u : State} (ht : step s = .next t) (hs : step s = .next u.advance) : t.ph = u.ph := by
  rw [Host.Outcome.next.inj (ht.symm.trans hs), State.advance_ph]

/-- Settles O45: each row is the phase that the operation of the row sets. -/
theorem phaseTransitions : Obligations.PhaseTransitions := by
  unfold Obligations.PhaseTransitions
  intro s t ht
  refine ⟨fun hr => ph_of_step_eq ht (step_of_rst hr), fun hr => ⟨fun hb hc => ?nop, fun hb hc hcall hloc => ?start,
    fun hb hc hlens => ?reject, fun hb hc => ?clear, fun hp => ?pack, fun hp => ?seed, fun hp => ?shift,
    fun hp hk => ?drawn, fun hp hk => ?skipped, fun hp hj => ?placeFirst, fun hp hj hk => ?placeSecond,
    fun hp hj hk => ?placeLast⟩⟩
  case nop => exact ph_of_step_eq ht (step_of_nop hr hb hc)
  case start => exact ph_of_step_eq ht (step_of_start_accepted hr hb hc hcall hloc)
  case reject => exact ph_of_step_eq ht (step_of_start_rejected hr hb hc hlens)
  case clear => exact ph_of_step_eq ht (step_of_clear hr hb hc)
  case pack => exact ph_of_step_eq ht (step_of_pack hr hp)
  case seed => exact ph_of_step_eq ht (step_of_seed hr hp)
  case shift => exact ph_of_step_eq ht (step_of_exec hr hp (exec_shift s))
  case drawn => exact ph_of_step_eq ht (step_of_addr_kept hr hp (keeps_iff.2 hk))
  case skipped => exact ph_of_step_eq ht (step_of_addr_skipped hr hp (keeps_eq_false_iff.2 hk))
  case placeFirst => exact (ph_of_step_eq ht (step_of_place hr hp)).trans (State.afterPlace_of_even hj)
  case placeSecond =>
    exact (ph_of_step_eq ht (step_of_place hr hp)).trans ((State.afterPlace_of_odd hj).trans (if_neg hk.ne))
  case placeLast => exact (ph_of_step_eq ht (step_of_place hr hp)).trans ((State.afterPlace_of_odd hj).trans (if_pos hk))

/-! ### The writers (R225) -/

/-- Settles O47: each effect against the list of registers, of which it changes its own only. -/
theorem registerWriters : Obligations.RegisterWriters := by
  unfold Obligations.RegisterWriters
  intro s t hr ht
  obtain ⟨u, hu, rfl⟩ := edgeEffect_of_step hr ht
  cases hu with
  | waited => simp
  | started hb hc hcall hloc => simp [hb, hc, hcall, hloc]
  | rejected hb hc => simp [hb, hc]
  | cleared hb hc => simp [hb, hc]
  | packed hp | seeded hp | shifted hp => simp [hp]
  | drawn hp hk => simp [hp, hk]
  | skipped hp => simp [hp]
  | placed hp =>
    rw [State.placeLatched_frame]
    simp [hp]

end Sys2Proof.Machine
end

section
/-! PROOFS. The run of an accepted START (44_sequencer_host.md R231): 500 busy edges to DONE, the registers and the symbols there, and
that they stay as long as the host sends no command. -/

namespace Sys2Proof.Machine

/-! ### Runs -/

theorem EdgeEffect.ports_script {s u : State} (hu : EdgeEffect s u) : u.ports = s.ports ∧ u.script = s.script := by
  cases hu with
  | waited | started | rejected | cleared | packed | seeded | shifted | drawn | skipped => exact ⟨rfl, rfl⟩
  | placed => rw [State.placeLatched_frame]; exact ⟨rfl, rfl⟩

/-- An edge brings what the host drives one edge nearer, and does nothing else to it. -/
theorem portsAt_of_step {s t : State} (ht : step s = .next t) (e : Nat) : t.portsAt e = s.portsAt (e + 1) := by
  cases hr : s.ports.rst with
  | true =>
    obtain rfl := Host.Outcome.next.inj ((step_of_rst hr).symm.trans ht)
    exact s.resetRegisters.portsAt_advance e
  | false =>
    obtain ⟨u, hu, rfl⟩ := edgeEffect_of_step hr ht
    obtain ⟨hports, hscript⟩ := hu.ports_script
    rw [State.portsAt_advance, State.portsAt_congr hports hscript]

theorem portsAt_of_run {k : Nat} {s t : State} (h : Host.Core.run Sys2Proof.core k s = .next t) (e : Nat) :
    t.portsAt e = s.portsAt (e + k) := by
  induction k generalizing s with
  | zero =>
    obtain rfl : s = t := Host.Outcome.next.inj h
    rfl
  | succ k ih =>
    obtain ⟨u, hu⟩ := exists_step_eq_next s
    rw [run_succ_of_step k hu] at h
    rw [ih h, portsAt_of_step hu, Nat.add_assoc]

/-- The host keeps `rst` low at the next `k` edges. -/
def NoReset (k : Nat) (s : State) : Prop := ∀ e < k, (s.portsAt e).rst = false

theorem NoReset.head {k : Nat} {s : State} (h : NoReset (k + 1) s) : s.ports.rst = false := h 0 (Nat.succ_pos k)

theorem NoReset.tail {k : Nat} {s t : State} (h : NoReset (k + 1) s) (ht : step s = .next t) : NoReset k t :=
  fun e he => by rw [portsAt_of_step ht]; exact h (e + 1) (Nat.succ_lt_succ he)

/-- From `s` the block is busy at each of `k` edges, and then in `t`. -/
structure BusyRun (k : Nat) (s t : State) : Prop where
  run : Host.Core.run Sys2Proof.core k s = .next t
  busy : ∀ e < k, ∃ u : State, Host.Core.run Sys2Proof.core e s = .next u ∧ u.busy = true

theorem BusyRun.zero (s : State) : BusyRun 0 s s := ⟨rfl, nofun⟩

theorem BusyRun.cons {k : Nat} {s t v : State} (hb : s.busy = true) (hs : step s = .next t) (h : BusyRun k t v) :
    BusyRun (k + 1) s v where
  run := (run_succ_of_step k hs).trans h.run
  busy e he := by
    cases e with
    | zero => exact ⟨s, rfl, hb⟩
    | succ e =>
      rw [run_succ_of_step e hs]
      exact h.busy e (Nat.lt_of_succ_lt_succ he)

/-- In a wait phase edges without a reset or a command change the host's side only (R211, R232). -/
theorem run_of_nop {d : Nat} {s : State} (hb : s.busy = false) (hr : NoReset d s)
    (hc : ∀ e < d, (s.portsAt e).cmd = 0 ∨ (s.portsAt e).cmd = 3) :
    ∃ q l, Host.Core.run Sys2Proof.core d s = .next { s with ports := q, script := l } := by
  induction d generalizing s with
  | zero => exact ⟨s.ports, s.script, rfl⟩
  | succ d ih =>
    have hs := step_of_nop hr.head hb (hc 0 (Nat.succ_pos d))
    rw [run_succ_of_step d hs]
    exact ih (s := s.advance) hb (hr.tail hs) fun e he => by
      rw [State.portsAt_advance]
      exact hc (e + 1) (Nat.succ_lt_succ he)

/-! ### The registers at the end of an encode -/

/-- `REG` is the register of the stream after the steps that `K` counts (R150). -/
def RegFollows (s : State) : Prop := s.reg = regBefore s.n s.m s.k.toNat

/-- SHIFT is one step of the stream (R154, R220). -/
theorem regFollows_shift {s : State} (h : RegFollows s) (hk : s.k.toNat ≤ 80) :
    RegFollows (((s.ceStep ((schedBit s.n s.m s.k.toNat).getD false)).incK).goto .addr) := by
  have hk1 : (s.ceStep ((schedBit s.n s.m s.k.toNat).getD false)).incK.k.toNat = s.k.toNat + 1 :=
    State.toNat_incK_k (Nat.lt_of_le_of_lt hk (by decide))
  rw [RegFollows, State.goto_k, hk1, regBefore, convReg_eq_shiftIn]
  exact congrArg (shiftIn · _) h

theorem regFollows_of_step_eq {s t u : State} (hs : step s = .next u.advance) (hu : RegFollows u)
    (ht : step s = .next t) : RegFollows t :=
  Host.Outcome.next.inj (hs.symm.trans ht) ▸ hu

section OneEncode

variable {n : PackedN} {m : PackedM} {s t : State}

/-- Every edge of a running encode keeps `REG` on the stream. -/
theorem regFollows_of_step (h : Encoding n m s) (hf : RegFollows s) (hr : s.ports.rst = false)
    (ht : step s = .next t) : RegFollows t := by
  have hcounting := h.counting
  cases hp : s.ph with
  | idle | pack | seed | done | err => simp [hp, countingPhase] at hcounting
  | shift =>
    obtain ⟨hk, -⟩ := (countInv_shift hp).1 h.inv.counts
    have hle : s.k.toNat ≤ 80 := Nat.le_of_lt_succ hk
    exact regFollows_of_step_eq (step_of_shift hr hp hle) (regFollows_shift hf hle) ht
  | addr =>
    cases hk : keeps s.cnt with
    | true => exact regFollows_of_step_eq (step_of_addr_kept hr hp hk) hf ht
    | false => exact regFollows_of_step_eq (step_of_addr_skipped hr hp hk) hf ht
  | place =>
    have hs := step_of_place hr hp
    rw [h.inv.place_eq_placed hp] at hs
    exact regFollows_of_step_eq hs hf ht

/-- All 162 draws are made only at the counter 255 (R178). -/
theorem eq_255_of_keptBelow {c : Byte} (h : keptBelow c.toNat = 162) : c = 255 := by
  obtain ⟨-, hlast⟩ := drawAfterTheLastRefused
  exact BitVec.eq_of_toNat_eq ((hlast c.toNat c.isLt).1 h)

/-- What an encode of a second field `m` leaves in the registers (R231). -/
structure EndRegisters (m : PackedM) (s : State) : Prop where
  errc : s.errc = .none
  k : s.k = 81
  j : s.j = 162
  cnt : s.cnt = 255
  addr : s.addr = 127
  reg : s.reg = if m.getLsbD 0 then 0x80000000 else 0

theorem EndRegisters.edgesLeft (h : EndRegisters m s) : s.edgesLeft = 0 := by
  rw [State.edgesLeft, h.k, h.cnt, h.j]
  rfl

theorem EndRegisters.advance (h : EndRegisters m s) : EndRegisters m s.advance :=
  ⟨h.errc, h.k, h.j, h.cnt, h.addr, h.reg⟩

/-- The last PLACE is of the second bit of step 80 at the last address drawn, and the tail bits have been shifted in. -/
theorem endRegisters_placed (h : Encoding n m s) (hf : RegFollows s) (hp : s.ph = .place)
    (hd : s.afterPlace = .done) : EndRegisters m s.placed := by
  obtain ⟨hplacing, hkept, -, haddr, -⟩ := (countInv_place hp).1 h.inv.counts
  obtain hc | ⟨-, hk, hj⟩ := hplacing.afterPlace_cases
  · rw [hd] at hc
    cases hc
  · have hcnt : s.cnt = 255 := eq_255_of_keptBelow (by rw [hkept, hj])
    exact {
      errc := h.inv.errc_eq_none hp nofun
      k := BitVec.eq_of_toNat_eq hk
      j := BitVec.eq_of_toNat_eq (by rw [s.toNat_placed_j hplacing, hj]; rfl)
      cnt := hcnt
      addr := by
        change s.addr = 127
        rw [haddr, hcnt]
        decide
      reg := by
        change s.reg = _
        rw [hf, hk, regBefore, convReg_last, h.fieldM] }

/-- The edge that ends an encode is that PLACE. -/
theorem endRegisters_of_step (h : Encoding n m s) (hf : RegFollows s) (hr : s.ports.rst = false)
    (ht : step s = .next t) (hd : t.ph = .done) : EndRegisters m t := by
  have hcounting := h.counting
  cases hp : s.ph with
  | idle | pack | seed | done | err => simp [hp, countingPhase] at hcounting
  | shift => cases hd.symm.trans (ph_of_step_eq ht (step_of_exec hr hp (exec_shift s)))
  | addr =>
    cases hk : keeps s.cnt with
    | true => cases hd.symm.trans (ph_of_step_eq ht (step_of_addr_kept hr hp hk))
    | false => cases hd.symm.trans (ph_of_step_eq ht (step_of_addr_skipped hr hp hk))
  | place =>
    have hs := step_of_place hr hp
    rw [h.inv.place_eq_placed hp] at hs
    have hafter : s.afterPlace = .done := (ph_of_step_eq ht hs).symm.trans hd
    obtain rfl := Host.Outcome.next.inj (hs.symm.trans ht)
    exact (endRegisters_placed h hf hp hafter).advance

/-! ### From START to DONE -/

/-- A running encode takes exactly the edges that are left, whatever the host drives but reset. -/
theorem Encoding.busyRun {k : Nat} (h : Encoding n m s) (hf : RegFollows s) (hk : s.edgesLeft = k) (hr : NoReset k s) :
    ∃ v, BusyRun k s v ∧ Encoded n m v ∧ EndRegisters m v := by
  induction k generalizing s with
  | zero =>
    obtain ⟨t, -, hleft, -⟩ := h.drive_nop
    omega
  | succ k ih =>
    obtain ⟨t, ht, hleft, hnext⟩ := h.step hr.head
    have hb := busy_of_countingPhase h.counting
    obtain hrun | hend := hnext
    · obtain ⟨v, hv, hfin⟩ := ih hrun (regFollows_of_step h hf hr.head ht) (by omega) (hr.tail ht)
      exact ⟨v, hv.cons hb ht, hfin⟩
    · have hregs := endRegisters_of_step h hf hr.head ht hend.done
      have hleft0 := hregs.edgesLeft
      obtain rfl : k = 0 := by omega
      exact ⟨t, (BusyRun.zero t).cons hb ht, hend, hregs⟩

end OneEncode

/-- From SEED an encode takes 499 edges: SEED, 81 steps, 255 counter values and 162 parity bits (R231). -/
theorem busyRun_of_seed {s : State} (hp : s.ph = .seed) (he : s.errc = .none) (hr : NoReset 499 s) :
    ∃ v, BusyRun 499 s v ∧ Encoded s.n s.m v ∧ EndRegisters s.m v := by
  have hs := step_of_seed hr.head hp
  obtain ⟨v, hv, hfin⟩ := (encoding_seed he).advance.busyRun rfl rfl (hr.tail hs)
  exact ⟨v, hv.cons (by rw [State.busy, hp]; rfl) hs, hfin⟩

/-- From PACK it takes 500. -/
theorem busyRun_of_pack {s : State} (hp : s.ph = .pack) (he : s.errc = .none) (hr : NoReset 500 s) :
    ∃ v, BusyRun 500 s v ∧
      Encoded (packNField (layoutChars s.callLen.toNat s.call)) (packMField s.loc s.pwr.toInt) v ∧
      EndRegisters (packMField s.loc s.pwr.toInt) v := by
  have hs := step_of_pack hr.head hp
  obtain ⟨v, hv, hfin⟩ := busyRun_of_seed (s := s.packFields.advance) rfl he (hr.tail hs)
  exact ⟨v, hv.cons (by rw [State.busy, hp]; rfl) hs, hfin⟩

/-- An accepted START of valid operands is followed by 500 busy edges and the end of their encode (R212, R231). -/
theorem busyRun_of_start {s : State} {call loc : List Byte} {p : Int} (hpres : Presents s.ports call loc p)
    (hl : loc.length = 4) (hr : NoReset 500 s.latch.advance) :
    ∃ v, BusyRun 500 s.latch.advance v ∧ Encoded (packedCall call) (packedLoc loc p) v ∧
      EndRegisters (packedLoc loc p) v := by
  rw [← hpres.packN_eq, ← hpres.packM_eq hl]
  exact busyRun_of_pack rfl rfl hr

/-- A START whose operands fail the check is in ERR at once (R212, R243). -/
theorem step_of_start_of_invalid {s : State} {call loc : List Byte} {p : Int} (hr : s.ports.rst = false)
    (hb : s.busy = false) (hcmd : s.ports.cmd = 1) (hpres : Presents s.ports call loc p)
    (h : call = [] ∨ loc.length ≠ 4) : step s = .next s.raiseInvalidArgument.advance := by
  have hlens : s.ports.callLen.toNat = 0 ∨ s.ports.locLen.toNat ≠ 4 := by
    rw [hpres.callLen, hpres.locLen, toNat_presentLen, toNat_presentLen]
    rcases h with rfl | h
    · exact .inl rfl
    · omega
  exact step_of_start_rejected hr hb hcmd hlens

/-! ### What can be read in DONE -/

theorem State.getElem?_readAll (s : State) {a : Nat} (ha : a ≤ 161) :
    s.readAll[a]? = some (s.rdData (BitVec.ofNat 8 a)) := by
  have hlt : a < Config.nsym := Nat.lt_succ_of_le ha
  rw [State.readAll, List.getElem?_map, List.getElem?_range hlt, Option.map_some]

theorem Encoded.getElem?_readAll {n : PackedN} {m : PackedM} {s : State} (h : Encoded n m s) {a : Nat} (ha : a ≤ 161) :
    s.readAll[a]? = some (s.sym.read a) := by
  rw [State.readAll_of_done h.done, getElem?_map_read_range _ ha]

/-- Settles O54: the edge START, 500 busy edges of its encode to DONE, and then edges that change the host's side only. -/
theorem encodeRunEndsInDone : Obligations.EncodeRunEndsInDone := by
  unfold Obligations.EncodeRunEndsInDone
  intro s call loc p hb hr hcmd hpres
  refine ⟨fun hc hl d hrst hnop => ?accepted, fun hinvalid => ?rejected⟩
  case accepted =>
    have hs := step_of_start hr hb hcmd hpres hc hl
    have hlow : NoReset 500 s.latch.advance := fun e he => by
      rw [portsAt_of_step hs]
      exact hrst (e + 1) (by omega) (by omega)
    obtain ⟨v, hrun, hend, herrc, hk, hj, hcnt, haddr, hreg⟩ := busyRun_of_start hpres hl hlow
    have h501 : Host.Core.run Sys2Proof.core 501 s = .next v := (run_succ_of_step 500 hs).trans hrun.run
    obtain ⟨q, l, hwait⟩ := run_of_nop (d := d) (EndOfRun.not_busy (.inl hend.done))
      (fun e he => by rw [portsAt_of_run h501]; exact hrst _ (by omega) (by omega))
      (fun e he => by rw [portsAt_of_run h501]; exact hnop _ (by omega) (by omega))
    refine ⟨fun e h1 h500 => ?_, _, v.readAll, (run_add 501 d h501).trans hwait, hend.encodeWith_eq hc hl, hend.done,
      herrc, fun a ha => ⟨v.getElem?_readAll ha, hend.getElem?_readAll ha⟩, hk, hj, hcnt, haddr, hreg⟩
    obtain ⟨e, rfl⟩ := Nat.exists_eq_add_of_le' h1
    rw [run_succ_of_step e hs]
    exact hrun.busy e h500
  case rejected => exact ⟨_, step_of_start_of_invalid hr hb hcmd hpres hinvalid, rfl, rfl⟩

end Sys2Proof.Machine
end

section
/-! PROOFS. The error register (60_exceptions.md R242, R243): what any operation can do to `ERRC`, and what a failing START shows. -/

namespace Sys2Proof.Machine

/-! ### The codes an operation can leave (R242) -/

/-- The error codes that one operation can leave in a state `s`. -/
inductive ErrcChange (s : State) : ErrCode → Prop where
  /-- a busy phase, a function, NOP, and a command while busy write no error code, 10_state.md R39 -/
  | kept : ErrcChange s s.errc
  /-- `CLEAR` and an accepted START that passes the check, R213 and R212; `RESET`, R270 -/
  | cleared : ErrcChange s .none
  /-- an accepted START that fails the check, R243 -/
  | raised : ErrcChange s .invalidArgument

theorem ErrcChange.eq_or {s : State} {e : ErrCode} (h : ErrcChange s e) :
    e = s.errc ∨ e = .none ∨ e = .invalidArgument := by
  cases h with
  | kept => exact .inl rfl
  | cleared => exact .inr (.inl rfl)
  | raised => exact .inr (.inr rfl)

/-- An outcome whose next state is known changes the error code as that state shows. -/
theorem ErrcChange.of_next {s t u : State} {o : Host.Outcome State Fault Refusal} (h : o = .next t) (e : o = .next u)
    (hu : ErrcChange s u.errc) : ErrcChange s t.errc :=
  Host.Outcome.next.inj (e.symm.trans h) ▸ hu

theorem errcChange_of_hostCommand {s t : State} (h : hostCommand s = .next t) : ErrcChange s t.errc := by
  obtain e | e | e | e := hostCommand_cases s
  · exact .of_next h e .kept
  · exact .of_next h e .cleared
  · exact .of_next h e .cleared
  · exact .of_next h e .raised

theorem errcChange_of_start {s t : State} (h : exec .start s = .next t) : ErrcChange s t.errc := by
  cases hb : s.busy with
  | true => exact .of_next h (exec_start_of_busy hb) .kept
  | false =>
    rw [exec_start_of_wait hb] at h
    obtain ⟨-, -, e⟩ | ⟨-, e⟩ := startAccepted_cases s
    · exact .of_next h e .cleared
    · exact .of_next h e .raised

theorem errcChange_of_clear {s t : State} (h : exec .clear s = .next t) : ErrcChange s t.errc := by
  cases hb : s.busy with
  | true => exact .of_next h (exec_clear_of_busy hb) .kept
  | false => exact .of_next h (exec_clear_of_wait hb) .cleared

theorem errcChange_of_addr {s t : State} (h : exec .addr s = .next t) : ErrcChange s t.errc := by
  cases hk : keeps s.cnt with
  | true => exact .of_next h (exec_addr_of_keeps hk) .kept
  | false => exact .of_next h (exec_addr_of_not_keeps hk) .kept

theorem exec_ilnext_of_draw_eq_none {s : State} (h : draw s.cnt = none) : exec .ilnext s = .refused .drawsExhausted := by
  change execIlnext s = _
  rw [execIlnext, h]

theorem errcChange_of_ilnext {s t : State} (h : exec .ilnext s = .next t) : ErrcChange s t.errc := by
  cases hd : draw s.cnt with
  | none => exact nomatch (exec_ilnext_of_draw_eq_none hd).symm.trans h
  | some => exact .of_next h (exec_ilnext_of_draw hd) .kept

theorem errcChange_of_encode {call loc : List Byte} {p : Int} {s t : State} (h : exec (.encode call loc p) s = .next t) :
    ErrcChange s t.errc := by
  by_cases hv : call = [] ∨ loc.length ≠ 4
  · exact .of_next h (exec_encode_of_invalid hv p s) .kept
  · obtain ⟨hc, hl⟩ := not_or.1 hv
    exact .of_next h (exec_encode_of_valid hc (not_not.1 hl) p s) .kept

theorem errcChange_of_place {a : Byte} {p : Bool} {s t : State} (h : exec (.place a p) s = .next t) :
    ErrcChange s t.errc := by
  obtain ⟨-, rfl⟩ := placeAt_next h
  exact .kept

/-- Everything an operation can do to the error code. -/
theorem errcChange_of_exec {i : Instr} {s t : State} (h : exec i s = .next t) : ErrcChange s t.errc := by
  cases i with
  | nop | rsvd3 | pack | seedOp | shift | value | check | layout | packN | packM | bitsched | cestep | parity | ceinit
  | rev8 | ilinit | seed => exact .of_next h rfl .kept
  | reset => exact .of_next h rfl .cleared
  | idle | done | err => exact errcChange_of_hostCommand h
  | start => exact errcChange_of_start h
  | clear => exact errcChange_of_clear h
  | addr => exact errcChange_of_addr h
  | ilnext => exact errcChange_of_ilnext h
  | encode => exact errcChange_of_encode h
  | place => exact errcChange_of_place h
  | placeOp => exact .of_next h (exec_placeOp s) .kept

/-- Settles O46: an operation keeps the code, clears it or raises InvalidArgument. -/
theorem noOtherErrorCode : Obligations.NoOtherErrorCode := by
  unfold Obligations.NoOtherErrorCode
  exact fun i s t h => (errcChange_of_exec h).eq_or

/-! ### What a failing START shows (R243) -/

/-- Settles O38: the state that raises the error is in ERR, where only `err` and its code show and nothing can be read. -/
theorem failingStartOutputs : Obligations.FailingStartOutputs := by
  unfold Obligations.FailingStartOutputs
  exact fun s hb hlens => ⟨s.raiseInvalidArgument, exec_start_of_invalid hb hlens, rfl, rfl, fun _ => rfl⟩

end Sys2Proof.Machine
end

section
/-! PROOFS. The reset (70_reset_and_hazards.md R270, R271): what the output ports show in IDLE, and `RESET` from every state. -/

namespace Sys2Proof.Machine

/-- In IDLE without an error every output is low, whatever the memory holds and the host drives on `rd_addr` (R22, R38). -/
theorem State.outputs_of_idle {s : State} (hp : s.ph = .idle) (he : s.errc = .none) :
    s.outputs = { busy := false, done := false, err := false, errCode := 0, rdData := 0 } := by
  have hdone : s.done = false := by simp [State.done, hp]
  have hrd : s.rdData s.ports.rdAddr = 0 := by simp [State.rdData, hdone]
  simp [State.outputs, State.busy, State.err, State.errCode, hdone, hrd, hp, he, busyPhase, errorCode]

theorem exec_reset (s : State) : exec .reset s = .next s.resetRegisters := rfl

/-- Settles O43: `RESET` leaves IDLE without an error, so all outputs are low; it reads no phase and no command, and an edge
with `rst` = 1 runs it before the host moves on. -/
theorem resetOperation : Obligations.ResetOperation := by
  unfold Obligations.ResetOperation
  intro s
  exact ⟨s.resetRegisters, exec_reset s, s.resetRegisters_ph, s.resetRegisters_errc, s.wf_freeMemory,
    State.outputs_of_idle s.resetRegisters_ph s.resetRegisters_errc, s.resetRegisters_ports, s.resetRegisters_script,
    s.resetRegisters_ret, step_of_rst⟩

end Sys2Proof.Machine
end
